-- ==== Sys2Proof/Word.lean ====
section
/-! DEFINITION. The value types of the core: bytes, 16-bit words, register and key numbers. -/

namespace Sys2Proof

/-- An 8-bit value: a general register, a timer, a memory byte (10_state.md R20). -/
abbrev Byte := BitVec 8

/-- A 16-bit value: `pc`, `index`, `opcode`, a stack slot (10_state.md R20). -/
abbrev Word := BitVec 16

/-- The number of a general register, 0x0 to 0xF (10_state.md R21). -/
abbrev RegIdx := Fin 16

/-- The number of a key, 0x0 to 0xF (10_state.md R35). -/
abbrev KeyIdx := Fin 16

/-- The flag register `reg[0xF]` (10_state.md R22). -/
abbrev flagReg : RegIdx := 15

end Sys2Proof
end

