-- ==== Sys2Proof/Syntax.lean ====
section
/-! DEFINITION. The instructions: one constructor per row of spec/opcode_table.json (30_encoding.md R75). -/

namespace Sys2Proof

/-- The 34 instructions of the core. `x` and `y` number general registers, `nn` is the 8-bit immediate, `nnn` the 12-bit
address and `n` the number of sprite rows (30_encoding.md R71, R73). -/
inductive Instr where
  /-- `00E0` CLS (43_display.md R181). -/
  | cls
  /-- `00EE` RET (40_control_flow.md R101). -/
  | ret
  /-- `1NNN` JP nnn (40_control_flow.md R102). -/
  | jp (nnn : BitVec 12)
  /-- `2NNN` CALL nnn (40_control_flow.md R103). -/
  | call (nnn : BitVec 12)
  /-- `3XNN` SE Vx, nn (40_control_flow.md R104). -/
  | seImm (x : RegIdx) (nn : Byte)
  /-- `4XNN` SNE Vx, nn (40_control_flow.md R105). -/
  | sneImm (x : RegIdx) (nn : Byte)
  /-- `5XY0` SE Vx, Vy (40_control_flow.md R106). -/
  | seReg (x y : RegIdx)
  /-- `6XNN` LD Vx, nn (41_alu.md R131). -/
  | ldImm (x : RegIdx) (nn : Byte)
  /-- `7XNN` ADD Vx, nn (41_alu.md R132). -/
  | addImm (x : RegIdx) (nn : Byte)
  /-- `8XY0` LD Vx, Vy (41_alu.md R133). -/
  | ldReg (x y : RegIdx)
  /-- `8XY1` OR Vx, Vy (41_alu.md R134). -/
  | orReg (x y : RegIdx)
  /-- `8XY2` AND Vx, Vy (41_alu.md R135). -/
  | andReg (x y : RegIdx)
  /-- `8XY3` XOR Vx, Vy (41_alu.md R136). -/
  | xorReg (x y : RegIdx)
  /-- `8XY4` ADD Vx, Vy (41_alu.md R137). -/
  | addReg (x y : RegIdx)
  /-- `8XY5` SUB Vx, Vy (41_alu.md R138). -/
  | subReg (x y : RegIdx)
  /-- `8XY6` SHR Vx; the Y field is kept and selects nothing (41_alu.md R139, 30_encoding.md R72). -/
  | shr (x y : RegIdx)
  /-- `8XY7` SUBN Vx, Vy (41_alu.md R140). -/
  | subnReg (x y : RegIdx)
  /-- `8XYE` SHL Vx; the Y field is kept and selects nothing (41_alu.md R141, 30_encoding.md R72). -/
  | shl (x y : RegIdx)
  /-- `9XY0` SNE Vx, Vy (40_control_flow.md R107). -/
  | sneReg (x y : RegIdx)
  /-- `ANNN` LD I, nnn (42_index_memory.md R161). -/
  | ldI (nnn : BitVec 12)
  /-- `BNNN` JP V0, nnn (40_control_flow.md R108). -/
  | jpV0 (nnn : BitVec 12)
  /-- `CXNN` RND Vx, nn (41_alu.md R145). -/
  | rnd (x : RegIdx) (nn : Byte)
  /-- `DXYN` DRW Vx, Vy, n (43_display.md R182). -/
  | drw (x y : RegIdx) (n : Nat)
  /-- `EX9E` SKP Vx (44_keys_timers.md R201). -/
  | skp (x : RegIdx)
  /-- `EXA1` SKNP Vx (44_keys_timers.md R202). -/
  | sknp (x : RegIdx)
  /-- `FX07` LD Vx, DT (44_keys_timers.md R203). -/
  | ldVxDt (x : RegIdx)
  /-- `FX0A` LD Vx, K (44_keys_timers.md R204). -/
  | ldVxK (x : RegIdx)
  /-- `FX15` LD DT, Vx (44_keys_timers.md R205). -/
  | ldDtVx (x : RegIdx)
  /-- `FX18` LD ST, Vx (44_keys_timers.md R206). -/
  | ldStVx (x : RegIdx)
  /-- `FX1E` ADD I, Vx (42_index_memory.md R162). -/
  | addI (x : RegIdx)
  /-- `FX29` LD F, Vx (42_index_memory.md R163). -/
  | ldF (x : RegIdx)
  /-- `FX33` LD B, Vx (42_index_memory.md R164). -/
  | ldB (x : RegIdx)
  /-- `FX55` LD [I], Vx (42_index_memory.md R165). -/
  | stRegs (x : RegIdx)
  /-- `FX65` LD Vx, [I] (42_index_memory.md R166). -/
  | ldRegs (x : RegIdx)
  deriving DecidableEq, Repr

end Sys2Proof
end

