-- ==== Sys2Proof/WellFormed.lean ====
section
/-! DEFINITION. Well-formedness of instructions and of program images. Register numbers, immediates and addresses are
bounded by their types; what the types leave to a check is checked here. -/

namespace Sys2Proof

/-- An instruction is well formed when every operand fits its field (30_encoding.md R71, R73): the sprite height N of
`DXYN` is a count 0 to 15; every other operand is bounded by its type, and "every value" of it is legal. -/
def Instr.wf : Instr → Bool
  | .drw _ _ n => n < 16
  | .cls | .ret => true
  | .jp _ | .call _ | .ldI _ | .jpV0 _ => true
  | .seImm _ _ | .sneImm _ _ | .ldImm _ _ | .addImm _ _ | .rnd _ _ => true
  | .seReg _ _ | .ldReg _ _ | .orReg _ _ | .andReg _ _ | .xorReg _ _ | .addReg _ _ | .subReg _ _ => true
  | .shr _ _ | .subnReg _ _ | .shl _ _ | .sneReg _ _ => true
  | .skp _ | .sknp _ | .ldVxDt _ | .ldVxK _ | .ldDtVx _ | .ldStVx _ => true
  | .addI _ | .ldF _ | .ldB _ | .stRegs _ | .ldRegs _ => true

/-- A program image fits when it has at most 3584 bytes (00_scope.md R7, 70_reset_and_hazards.md R253). -/
def programFits (bytes : List Byte) : Bool :=
  bytes.length ≤ 3584

end Sys2Proof
end

