-- ==== Sys2Proof/Decode.lean ====
section
/-! DEFINITION. The decode tree, total on any bytes and rejecting by name, then the encoder and the opcode table
(30_encoding.md R70 to R77). -/

namespace Sys2Proof

/-- Why a byte string is no instruction. -/
inductive DecodeError where
  /-- Fewer than two bytes: an instruction is exactly one 16-bit word (30_encoding.md R70). -/
  | truncated
  /-- A word that matches no row of the opcode map (30_encoding.md R76). -/
  | unrecognized (w : Word)
  deriving DecidableEq, Repr

/-! ## Fields (30_encoding.md R71) -/

/-- `op` = bits 15-12, the first-level dispatch. -/
def fieldOp (w : Word) : Fin 16 := (w.extractLsb' 12 4).toFin
/-- `X` = bits 11-8. -/
def fieldX (w : Word) : RegIdx := (w.extractLsb' 8 4).toFin
/-- `Y` = bits 7-4. -/
def fieldY (w : Word) : RegIdx := (w.extractLsb' 4 4).toFin
/-- `N` = bits 3-0. -/
def fieldN (w : Word) : Nat := (w.extractLsb' 0 4).toNat
/-- `NN` = bits 7-0. -/
def fieldNN (w : Word) : Byte := w.extractLsb' 0 8
/-- `NNN` = bits 11-0. -/
def fieldNNN (w : Word) : BitVec 12 := w.extractLsb' 0 12

/-! ## The decode tree (30_encoding.md R74, R75) -/

/-- Second level of op 0x0: the whole word decides. -/
def decodeOp0 (w : Word) : Except DecodeError Instr :=
  if w = 0x00E0 then .ok .cls
  else if w = 0x00EE then .ok .ret
  else .error (.unrecognized w)

/-- Second level of op 0x5: bits 3-0 must be 0. -/
def decodeOp5 (w : Word) : Except DecodeError Instr :=
  if fieldN w = 0 then .ok (.seReg (fieldX w) (fieldY w)) else .error (.unrecognized w)

/-- Second level of op 0x8: bits 3-0 select the operation. -/
def decodeOp8 (w : Word) : Except DecodeError Instr :=
  match fieldN w with
  | 0x0 => .ok (.ldReg (fieldX w) (fieldY w))
  | 0x1 => .ok (.orReg (fieldX w) (fieldY w))
  | 0x2 => .ok (.andReg (fieldX w) (fieldY w))
  | 0x3 => .ok (.xorReg (fieldX w) (fieldY w))
  | 0x4 => .ok (.addReg (fieldX w) (fieldY w))
  | 0x5 => .ok (.subReg (fieldX w) (fieldY w))
  | 0x6 => .ok (.shr (fieldX w) (fieldY w))
  | 0x7 => .ok (.subnReg (fieldX w) (fieldY w))
  | 0xE => .ok (.shl (fieldX w) (fieldY w))
  | _ => .error (.unrecognized w)

/-- Second level of op 0x9: bits 3-0 must be 0. -/
def decodeOp9 (w : Word) : Except DecodeError Instr :=
  if fieldN w = 0 then .ok (.sneReg (fieldX w) (fieldY w)) else .error (.unrecognized w)

/-- Second level of op 0xE: bits 7-0 select the operation. -/
def decodeOpE (w : Word) : Except DecodeError Instr :=
  if fieldNN w = 0x9E then .ok (.skp (fieldX w))
  else if fieldNN w = 0xA1 then .ok (.sknp (fieldX w))
  else .error (.unrecognized w)

/-- Second level of op 0xF: bits 7-0 select the operation. -/
def decodeOpF (w : Word) : Except DecodeError Instr :=
  match (fieldNN w).toNat with
  | 0x07 => .ok (.ldVxDt (fieldX w))
  | 0x0A => .ok (.ldVxK (fieldX w))
  | 0x15 => .ok (.ldDtVx (fieldX w))
  | 0x18 => .ok (.ldStVx (fieldX w))
  | 0x1E => .ok (.addI (fieldX w))
  | 0x29 => .ok (.ldF (fieldX w))
  | 0x33 => .ok (.ldB (fieldX w))
  | 0x55 => .ok (.stRegs (fieldX w))
  | 0x65 => .ok (.ldRegs (fieldX w))
  | _ => .error (.unrecognized w)

/-- Decode of one word: the 16-way first level on `op` (30_encoding.md R74, R75, R81). The last arm is op 0xF, the only
value left. -/
def decodeWord (w : Word) : Except DecodeError Instr :=
  match (fieldOp w).val with
  | 0x0 => decodeOp0 w
  | 0x1 => .ok (.jp (fieldNNN w))
  | 0x2 => .ok (.call (fieldNNN w))
  | 0x3 => .ok (.seImm (fieldX w) (fieldNN w))
  | 0x4 => .ok (.sneImm (fieldX w) (fieldNN w))
  | 0x5 => decodeOp5 w
  | 0x6 => .ok (.ldImm (fieldX w) (fieldNN w))
  | 0x7 => .ok (.addImm (fieldX w) (fieldNN w))
  | 0x8 => decodeOp8 w
  | 0x9 => decodeOp9 w
  | 0xA => .ok (.ldI (fieldNNN w))
  | 0xB => .ok (.jpV0 (fieldNNN w))
  | 0xC => .ok (.rnd (fieldX w) (fieldNN w))
  | 0xD => .ok (.drw (fieldX w) (fieldY w) (fieldN w))
  | 0xE => decodeOpE w
  | _ => decodeOpF w

/-- The word held by two consecutive bytes, the byte at the lower address in bits 15-8 (20_memory.md R55). -/
def wordOfBytes (b0 b1 : Byte) : Word := b0 ++ b1

/-- Decode from bytes, lowest address first: the instruction and the bytes after it (30_encoding.md R70). -/
def decode : List Byte → Except DecodeError (Instr × List Byte)
  | b0 :: b1 :: rest =>
    match decodeWord (wordOfBytes b0 b1) with
    | .ok i => .ok (i, rest)
    | .error e => .error e
  | [_] => .error .truncated
  | [] => .error .truncated

/-- The two bytes of a word as the hardware stores them, the high byte at the lower address (20_memory.md R55). -/
def bytesOfWord (w : Word) : List Byte := [w.extractLsb' 8 8, w.extractLsb' 0 8]

/-- The word that the opcode table's number `w` of `nbits` bits stands for: every instruction is one 16-bit word, and bits
at and above `nbits` are 0. -/
def tableWord (nbits w : Nat) : Word := BitVec.ofNat 16 (w % 2 ^ nbits)

/-- The instruction the decoder reads from the opcode table's number `w` of `nbits` bits. -/
def decodeTableWord (nbits w : Nat) : Option Instr :=
  match decode (bytesOfWord (tableWord nbits w)) with
  | .ok (i, _) => some i
  | .error _ => none

/-! ## The encoder, from the formats of 30_encoding.md R72 -/

/-- A register number as its four-bit field. -/
def regBits (x : RegIdx) : BitVec 4 := BitVec.ofFin x
/-- Format FA: op, NNN. -/
def formatFA (op : BitVec 4) (nnn : BitVec 12) : Word := op ++ nnn
/-- Format FI: op, X, NN. -/
def formatFI (op : BitVec 4) (x : RegIdx) (nn : Byte) : Word := op ++ regBits x ++ nn
/-- Formats FR and FD: op, X, Y, and the function nibble or N. -/
def formatFR (op : BitVec 4) (x y : RegIdx) (n : BitVec 4) : Word := op ++ regBits x ++ regBits y ++ n
/-- Format FK: op, X, function byte. -/
def formatFK (op : BitVec 4) (x : RegIdx) (fn : Byte) : Word := op ++ regBits x ++ fn

/-- The word of an instruction (30_encoding.md R72, R75). -/
def encode : Instr → Word
  | .cls => 0x00E0
  | .ret => 0x00EE
  | .jp nnn => formatFA 0x1 nnn
  | .call nnn => formatFA 0x2 nnn
  | .seImm x nn => formatFI 0x3 x nn
  | .sneImm x nn => formatFI 0x4 x nn
  | .seReg x y => formatFR 0x5 x y 0x0
  | .ldImm x nn => formatFI 0x6 x nn
  | .addImm x nn => formatFI 0x7 x nn
  | .ldReg x y => formatFR 0x8 x y 0x0
  | .orReg x y => formatFR 0x8 x y 0x1
  | .andReg x y => formatFR 0x8 x y 0x2
  | .xorReg x y => formatFR 0x8 x y 0x3
  | .addReg x y => formatFR 0x8 x y 0x4
  | .subReg x y => formatFR 0x8 x y 0x5
  | .shr x y => formatFR 0x8 x y 0x6
  | .subnReg x y => formatFR 0x8 x y 0x7
  | .shl x y => formatFR 0x8 x y 0xE
  | .sneReg x y => formatFR 0x9 x y 0x0
  | .ldI nnn => formatFA 0xA nnn
  | .jpV0 nnn => formatFA 0xB nnn
  | .rnd x nn => formatFI 0xC x nn
  | .drw x y n => formatFR 0xD x y (BitVec.ofNat 4 n)
  | .skp x => formatFK 0xE x 0x9E
  | .sknp x => formatFK 0xE x 0xA1
  | .ldVxDt x => formatFK 0xF x 0x07
  | .ldVxK x => formatFK 0xF x 0x0A
  | .ldDtVx x => formatFK 0xF x 0x15
  | .ldStVx x => formatFK 0xF x 0x18
  | .addI x => formatFK 0xF x 0x1E
  | .ldF x => formatFK 0xF x 0x29
  | .ldB x => formatFK 0xF x 0x33
  | .stRegs x => formatFK 0xF x 0x55
  | .ldRegs x => formatFK 0xF x 0x65

/-- The bytes of an instruction in memory order. -/
def encodeBytes (i : Instr) : List Byte := bytesOfWord (encode i)

/-! ## The opcode table (30_encoding.md R75, R77; spec/opcode_table.json) -/

/-- One row of spec/opcode_table.json: the pattern's name, its mask and the value of the masked bits. -/
structure OpcodeRow where
  pattern : String
  mask    : Word
  value   : Word
  deriving DecidableEq, Repr

/-- A word satisfies a row when its masked bits have the row's value. -/
def OpcodeRow.matchesWord (r : OpcodeRow) (w : Word) : Bool := w &&& r.mask = r.value

/-- The rows of op 0x0 to 0x7. -/
def opcodeTableLow : List OpcodeRow :=
  [⟨"00E0", 0xFFFF, 0x00E0⟩, ⟨"00EE", 0xFFFF, 0x00EE⟩, ⟨"1NNN", 0xF000, 0x1000⟩, ⟨"2NNN", 0xF000, 0x2000⟩,
   ⟨"3XNN", 0xF000, 0x3000⟩, ⟨"4XNN", 0xF000, 0x4000⟩, ⟨"5XY0", 0xF00F, 0x5000⟩, ⟨"6XNN", 0xF000, 0x6000⟩,
   ⟨"7XNN", 0xF000, 0x7000⟩]

/-- The rows of op 0x8. -/
def opcodeTableAlu : List OpcodeRow :=
  [⟨"8XY0", 0xF00F, 0x8000⟩, ⟨"8XY1", 0xF00F, 0x8001⟩, ⟨"8XY2", 0xF00F, 0x8002⟩, ⟨"8XY3", 0xF00F, 0x8003⟩,
   ⟨"8XY4", 0xF00F, 0x8004⟩, ⟨"8XY5", 0xF00F, 0x8005⟩, ⟨"8XY6", 0xF00F, 0x8006⟩, ⟨"8XY7", 0xF00F, 0x8007⟩,
   ⟨"8XYE", 0xF00F, 0x800E⟩]

/-- The rows of op 0x9 to 0xF. -/
def opcodeTableHigh : List OpcodeRow :=
  [⟨"9XY0", 0xF00F, 0x9000⟩, ⟨"ANNN", 0xF000, 0xA000⟩, ⟨"BNNN", 0xF000, 0xB000⟩, ⟨"CXNN", 0xF000, 0xC000⟩,
   ⟨"DXYN", 0xF000, 0xD000⟩, ⟨"EX9E", 0xF0FF, 0xE09E⟩, ⟨"EXA1", 0xF0FF, 0xE0A1⟩, ⟨"FX07", 0xF0FF, 0xF007⟩,
   ⟨"FX0A", 0xF0FF, 0xF00A⟩, ⟨"FX15", 0xF0FF, 0xF015⟩, ⟨"FX18", 0xF0FF, 0xF018⟩, ⟨"FX1E", 0xF0FF, 0xF01E⟩,
   ⟨"FX29", 0xF0FF, 0xF029⟩, ⟨"FX33", 0xF0FF, 0xF033⟩, ⟨"FX55", 0xF0FF, 0xF055⟩, ⟨"FX65", 0xF0FF, 0xF065⟩]

/-- The 34 rows of the opcode table. -/
def opcodeTable : List OpcodeRow := opcodeTableLow ++ opcodeTableAlu ++ opcodeTableHigh

/-- The pattern an instruction is an instance of: its row's name in the opcode table. -/
def Instr.pattern : Instr → String
  | .cls => "00E0"
  | .ret => "00EE"
  | .jp _ => "1NNN"
  | .call _ => "2NNN"
  | .seImm _ _ => "3XNN"
  | .sneImm _ _ => "4XNN"
  | .seReg _ _ => "5XY0"
  | .ldImm _ _ => "6XNN"
  | .addImm _ _ => "7XNN"
  | .ldReg _ _ => "8XY0"
  | .orReg _ _ => "8XY1"
  | .andReg _ _ => "8XY2"
  | .xorReg _ _ => "8XY3"
  | .addReg _ _ => "8XY4"
  | .subReg _ _ => "8XY5"
  | .shr _ _ => "8XY6"
  | .subnReg _ _ => "8XY7"
  | .shl _ _ => "8XYE"
  | .sneReg _ _ => "9XY0"
  | .ldI _ => "ANNN"
  | .jpV0 _ => "BNNN"
  | .rnd _ _ => "CXNN"
  | .drw _ _ _ => "DXYN"
  | .skp _ => "EX9E"
  | .sknp _ => "EXA1"
  | .ldVxDt _ => "FX07"
  | .ldVxK _ => "FX0A"
  | .ldDtVx _ => "FX15"
  | .ldStVx _ => "FX18"
  | .addI _ => "FX1E"
  | .ldF _ => "FX29"
  | .ldB _ => "FX33"
  | .stRegs _ => "FX55"
  | .ldRegs _ => "FX65"

end Sys2Proof
end

