-- ==== Sys2Proof/Machine/Flags.lean ====
section
/-! DEFINITION. The values written to the flag register `reg[0xF]` (10_state.md R22, 41_alu.md R144). -/

namespace Sys2Proof.Machine

/-- A flag as the byte it is stored as. -/
def flagByte (b : Bool) : Byte := if b then 1 else 0

/-- Carry out of the 8-bit add (41_alu.md R137). -/
def carryFlag (vx vy : Byte) : Byte := flagByte (vx.toNat + vy.toNat > 255)

/-- Not-borrow of `minuend - subtrahend`: 0 when the subtrahend is the greater (41_alu.md R138, R140). -/
def notBorrowFlag (minuend subtrahend : Byte) : Byte := flagByte (!(subtrahend.toNat > minuend.toNat))

/-- The bit a right shift by one shifts out (41_alu.md R139). -/
def lsbFlag (v : Byte) : Byte := v &&& 1

/-- The bit a left shift by one shifts out (41_alu.md R141). -/
def msbFlag (v : Byte) : Byte := (v >>> 7) &&& 1

/-- The collision flag of a sprite draw (43_display.md R183). -/
def collisionFlag (collided : Bool) : Byte := flagByte collided

end Sys2Proof.Machine
end

