-- ==== Sys2Proof/Config.lean ====
section
/-! DEFINITION. What this spec leaves to an implementation: the parameters of 00_scope.md R8 as data, and the free value
of the random source. Their default values stand in Machine/Parameters.lean. -/

namespace Sys2Proof.Config

/-- The 80 bytes installed at 0x000-0x04F by reset (parameter `FONT`, 00_scope.md R8). -/
abbrev Font := Vector Byte 80

/-- The highest key that `FX0A` scans (parameter `FX0A_LAST_KEY`, 00_scope.md R8; 92_eei_decisions.md D11). -/
inductive LastKey where
  /-- Keys 0x0 to 0xE are scanned, key 0xF never (the spec's default). -/
  | keyE
  /-- Keys 0x0 to 0xF are scanned. -/
  | keyF
  deriving DecidableEq, Repr

/-- The number of the highest key scanned. -/
def LastKey.toNat : LastKey → Nat
  | .keyE => 0xE
  | .keyF => 0xF

/-- How `8XY4`-`8XYE` read their operands when X or Y is 0xF (parameter `ALU_STATEMENT_ORDER`, 00_scope.md R8;
41_alu.md R130, R142; 92_eei_decisions.md D2). -/
inductive AluOrder where
  /-- The result statement reads the registers as the flag statement left them (the spec's default). -/
  | sequential
  /-- Flag and result are both computed from the values at the start of the instruction. -/
  | latched
  deriving DecidableEq, Repr

/-- The parameters of one core, fixed for its life (00_scope.md R8). -/
structure Params where
  font       : Font
  fx0aLastKey : LastKey
  aluOrder   : AluOrder
  deriving DecidableEq, Repr

/-- FREE VALUE: the byte the random source gives at its n-th draw when the host has injected none (41_alu.md R145;
92_eei_decisions.md D17: "the core assumes nothing of its distribution or of the relation between successive draws").
It has no body: no proof can see a value of it. Log entry 6. -/
opaque freeRandomByte : Nat → Byte

end Sys2Proof.Config
end

