-- ==== Sys2Proof/Machine/Parameters.lean ====
section
/-! DEFINITION. The defaults this spec takes for the parameters of 00_scope.md R8, and the reset contents of memory that
follow from `FONT`. -/

namespace Sys2Proof.Machine

open Sys2Proof.Config

/-- Glyphs 0 to 7 of the default font, five bytes each (20_memory.md R54). -/
def fontLow : List Byte :=
  [0xF0, 0x90, 0x90, 0x90, 0xF0,  0x20, 0x60, 0x20, 0x20, 0x70,  0xF0, 0x10, 0xF0, 0x80, 0xF0,  0xF0, 0x10, 0xF0, 0x10, 0xF0,
   0x90, 0x90, 0xF0, 0x10, 0x10,  0xF0, 0x80, 0xF0, 0x10, 0xF0,  0xF0, 0x80, 0xF0, 0x90, 0xF0,  0xF0, 0x10, 0x20, 0x40, 0x40]

/-- Glyphs 8 to F of the default font. -/
def fontHigh : List Byte :=
  [0xF0, 0x90, 0xF0, 0x90, 0xF0,  0xF0, 0x90, 0xF0, 0x10, 0xF0,  0xF0, 0x90, 0xF0, 0x90, 0x90,  0xE0, 0x90, 0xE0, 0x90, 0xE0,
   0xF0, 0x80, 0x80, 0x80, 0xF0,  0xE0, 0x90, 0x90, 0x90, 0xE0,  0xF0, 0x80, 0xF0, 0x80, 0xF0,  0xF0, 0x80, 0xF0, 0x80, 0x80]

/-- The default of `FONT` (20_memory.md R54). PRESUMED: the spec itself takes these bytes from general knowledge
(93_implementation_defined.md K1); a claim that depends on them states `FONT` as a premise. Unsafe; log entry 3. -/
def defaultFont : Font := Vector.ofFn fun i => (fontLow ++ fontHigh).getD i 0

/-- The defaults of all parameters (00_scope.md R8): the default font (log entry 3), `ALU_STATEMENT_ORDER` Sequential
(log entry 4), `FX0A_LAST_KEY` 0xE (log entry 5). -/
def defaultParams : Params := ⟨defaultFont, .keyE, .sequential⟩

/-- The reset contents of memory, and so what an address that no store has changed reads as: `FONT` at 0x000-0x04F and
0x00 above it (10_state.md R41, 20_memory.md R53). -/
def resetByte (font : Font) (a : Nat) : Byte := font[a]?.getD 0

end Sys2Proof.Machine
end

