-- ==== Sys2Proof/Machine/State.lean ====
section
/-! DEFINITION. The state of the core (10_state.md R20, R41), as plain data, and its reset value. INVENTORY.md lists every
field with the rule that names it. -/

namespace Sys2Proof.Machine

open Sys2Proof.Config

/-- The fatal conditions a cycle can raise (60_exceptions.md R220). Each one is TAKEN as R228 describes: the step answers a
next state whose fault record names it and which is halted. No step of this model answers `Host.Outcome.fault`: the spec
describes what the core does in every case (log entry 1). -/
inductive Fault where
  /-- Raised by decode of a word that matches no row (60_exceptions.md R221). Safe: it stops as the spec says. -/
  | unrecognizedOpcode
  /-- Raised by a fetch with `pc + 1 > 0xFFF` (60_exceptions.md R222). Safe: it stops as the spec says. -/
  | fetchOutOfRange
  /-- Raised by `DXYN`, `FX33`, `FX55`, `FX65` with an address above 0xFFF (60_exceptions.md R223). Safe: where the
  reference wraps instead (92_eei_decisions.md D6), the model stops where it goes on. -/
  | memOutOfRange
  /-- Raised by `2NNN` with all 16 slots occupied (60_exceptions.md R224). Unsafe if the reference stops one call earlier
  (92_eei_decisions.md D3; log entry 10). -/
  | stackOverflow
  /-- Raised by `00EE` with an empty stack (60_exceptions.md R225). Safe: it stops as the spec says. -/
  | stackUnderflow
  /-- Raised by `EX9E` and `EXA1` with a register above 0xF (60_exceptions.md R226). Safe: where the reference masks
  instead (92_eei_decisions.md D10), the model stops where it goes on. -/
  | keyOutOfRange
  deriving DecidableEq, Repr

/-- The code numbers 1 to 6 of 60_exceptions.md R220 (the numbering is the spec's decision D9). Code 7 is no cycle fault and
belongs to the refusal `programTooLarge` (`Refusal.code`, Machine/HostOps.lean). -/
def Fault.code : Fault → Nat
  | .unrecognizedOpcode => 1
  | .fetchOutOfRange => 2
  | .memOutOfRange => 3
  | .stackOverflow => 4
  | .stackUnderflow => 5
  | .keyOutOfRange => 6

/-- Why an operation is turned away with nothing done. -/
inductive Refusal where
  /-- Raised by `exec`'s arm of an instruction that has no meaning yet. Safe: nothing can be proved of it. No arm of this
  model uses it any more. -/
  | notModelled (mnemonic : String)
  /-- Raised by the host operation `load_program` with more than 3584 bytes: PROGRAM_TOO_LARGE, code 7 (`Refusal.code`,
  Machine/HostOps.lean), with the length (70_reset_and_hazards.md R253). No step raises it. Safe: the spec turns the load away whole. -/
  | programTooLarge (length : Nat)
  deriving DecidableEq, Repr

/-- The fault record `(code, pc, opcode, info)` (60_exceptions.md R229). `info` is the value R220's table names: an
opcode, an address, a stack pointer or a register. -/
structure FaultRecord where
  code   : Fault
  pc     : Word
  opcode : Word
  info   : Nat
  deriving DecidableEq, Repr

/-- The frame buffer: 32 rows of 64 pixels, `fb[y][x]`, origin top-left (10_state.md R33). -/
abbrev FrameBuffer := Vector (Vector Bool 64) 32

/-- Memory as (address, byte) pairs in one canonical form: addresses strictly rising, none above 0xFFF, and no entry
equal to the reset content of its address (`Memory.wf`, Machine/Ops.lean). -/
abbrev Memory := List Host.Cell

/-- The state of the machine. -/
structure State where
  /-- The bytes of `mem` that differ from the reset contents (20_memory.md R50). -/
  mem         : Memory
  /-- The general registers (10_state.md R21). -/
  reg         : Vector Byte 16
  /-- The index register (10_state.md R24). -/
  index       : Word
  /-- The program counter (10_state.md R25). -/
  pc          : Word
  /-- The call stack's slots (10_state.md R28). -/
  stack       : Vector Word 16
  /-- The number of occupied slots, 0 to 16 (10_state.md R29). -/
  sp          : Fin 17
  /-- The delay timer (10_state.md R31). -/
  delay       : Byte
  /-- The sound timer (10_state.md R32). -/
  sound       : Byte
  /-- The frame buffer (10_state.md R33). -/
  fb          : FrameBuffer
  /-- Set by `00E0` and `DXYN`, cleared only by the host (10_state.md R34). -/
  drawFlag    : Bool
  /-- The key state, true for pressed (10_state.md R35). -/
  key         : Vector Bool 16
  /-- The last fetched word (10_state.md R36). -/
  opcode      : Word
  /-- The fault record; the core is halted while there is one (10_state.md R37). -/
  fault       : Option FaultRecord
  /-- The MODEL's own: the parameters of this core, constant (00_scope.md R8; log entry 2). -/
  params      : Params
  /-- The MODEL's own: bytes the host has injected into the random source, next first (41_alu.md R145; log entry 6). -/
  randomIn    : List Byte
  /-- The MODEL's own: the number of draws made, to which the free value is applied (log entry 6). -/
  randomDraws : Nat
  deriving DecidableEq, Repr

/-- The state after reset of a core with parameters `p` (10_state.md R41, 70_reset_and_hazards.md R250). The random source
is not part of reset: it starts as DESIGN CHOICE log entry 7 says. -/
def State.resetWith (p : Params) : State where
  mem         := []
  reg         := Vector.replicate 16 0
  index       := 0
  pc          := 0x200
  stack       := Vector.replicate 16 0
  sp          := 0
  delay       := 0
  sound       := 0
  fb          := Vector.replicate 32 (Vector.replicate 64 false)
  drawFlag    := false
  key         := Vector.replicate 16 false
  opcode      := 0
  fault       := none
  params      := p
  randomIn    := []
  randomDraws := 0

/-- The machine right after reset, with the default parameters. -/
def State.reset : State := State.resetWith defaultParams

end Sys2Proof.Machine
end

