-- ==== Sys2Proof/Machine/Ops.lean ====
section
/-! DEFINITION. The named operations over memory, registers, stack, random source and program counter, and taking a fatal
condition. Every other file of Machine/ reads and writes the state through these. -/

namespace Sys2Proof.Machine

open Sys2Proof.Config

/-! ## Writing one element of the state -/

/-- Replaces memory. -/
def State.setMem (m : Memory) (s : State) : State := { s with mem := m }
/-- `reg[x] <- v` (10_state.md R21). -/
def State.writeReg (x : RegIdx) (v : Byte) (s : State) : State := { s with reg := s.reg.set x v }
/-- Replaces the whole register file. -/
def State.setRegs (r : Vector Byte 16) (s : State) : State := { s with reg := r }
/-- `index <- v` (10_state.md R24). -/
def State.setIndex (v : Word) (s : State) : State := { s with index := v }
/-- `pc <- v` (10_state.md R25). -/
def State.setPc (v : Word) (s : State) : State := { s with pc := v }
/-- Replaces the stack's slots. -/
def State.setStack (v : Vector Word 16) (s : State) : State := { s with stack := v }
/-- `sp <- v` (10_state.md R29). -/
def State.setSp (v : Fin 17) (s : State) : State := { s with sp := v }
/-- `delay <- v` (10_state.md R31). -/
def State.setDelay (v : Byte) (s : State) : State := { s with delay := v }
/-- `sound <- v` (10_state.md R32). -/
def State.setSound (v : Byte) (s : State) : State := { s with sound := v }
/-- Replaces the frame buffer (10_state.md R33). -/
def State.setFb (v : FrameBuffer) (s : State) : State := { s with fb := v }
/-- `draw_flag <- v` (10_state.md R34). -/
def State.setDrawFlag (v : Bool) (s : State) : State := { s with drawFlag := v }
/-- Replaces the key state wholesale (10_state.md R35). -/
def State.setKey (v : Vector Bool 16) (s : State) : State := { s with key := v }
/-- `opcode <- w` (10_state.md R36). -/
def State.setOpcode (w : Word) (s : State) : State := { s with opcode := w }
/-- `fault <- f` (10_state.md R37). -/
def State.setFault (f : Option FaultRecord) (s : State) : State := { s with fault := f }
/-- Replaces the injected bytes and the draw counter of the random source. -/
def State.setRandom (bytes : List Byte) (draws : Nat) (s : State) : State :=
  { s with randomIn := bytes, randomDraws := draws }

/-! ## Registers and program counter -/

/-- `reg[x]` (10_state.md R21). -/
def State.readReg (s : State) (x : RegIdx) : Byte := s.reg[x]

/-- `pc <- (pc + 2) mod 2^16`, the advance of a non-branching instruction (30_encoding.md R82, R86). -/
def State.advance (s : State) : State := s.setPc (s.pc + 2)

/-- The skip pattern (40_control_flow.md R100): `pc` advances by 4 when the condition holds and by 2 otherwise. -/
def State.skipIf (c : Bool) (s : State) : State := s.setPc (if c then s.pc + 4 else s.pc + 2)

/-! ## Memory -/

/-- The entry listed for an address. -/
def Memory.lookup : Memory → Nat → Option Byte
  | [], _ => none
  | (b, v) :: rest, a => if a = b then some v else lookup rest a

/-- Lists a byte at an address, in its place. -/
def Memory.insert : Memory → Nat → Byte → Memory
  | [], a, v => [(a, v)]
  | (b, w) :: rest, a, v =>
    if a < b then (a, v) :: (b, w) :: rest
    else if a = b then (a, v) :: rest
    else (b, w) :: insert rest a v

/-- Unlists an address. -/
def Memory.erase : Memory → Nat → Memory
  | [], _ => []
  | (b, w) :: rest, a => if a = b then erase rest a else (b, w) :: erase rest a

/-- The byte at an address: what is listed, else the reset content (10_state.md R41). -/
def Memory.read (font : Font) (m : Memory) (a : Nat) : Byte := (Memory.lookup m a).getD (resetByte font a)

/-- `mem[a] <- v`, keeping the canonical form: a byte equal to the reset content is not listed. -/
def Memory.write (font : Font) (m : Memory) (a : Nat) (v : Byte) : Memory :=
  if v = resetByte font a then Memory.erase m a else Memory.insert m a v

/-- The canonical form: addresses strictly rising, none above 0xFFF, no entry equal to its reset content. -/
def Memory.wf (font : Font) : Memory → Bool
  | [] => true
  | [(a, v)] => a ≤ 0xFFF && v ≠ resetByte font a
  | (a, v) :: (b, w) :: rest => a < b && a ≤ 0xFFF && v ≠ resetByte font a && wf font ((b, w) :: rest)

/-- `mem[a]` (20_memory.md R50); meant for `a` at most 0xFFF. -/
def State.readByte (s : State) (a : Nat) : Byte := Memory.read s.params.font s.mem a

/-- `mem[a] <- v` (20_memory.md R52: no address is protected); meant for `a` at most 0xFFF. -/
def State.writeByte (a : Nat) (v : Byte) (s : State) : State := s.setMem (Memory.write s.params.font s.mem a v)

/-- Bytes written at consecutive ascending addresses, with no check of their own. -/
def State.writeBytes : Nat → List Byte → State → State
  | _, [], s => s
  | a, b :: bs, s => writeBytes (a + 1) bs (s.writeByte a b)

/-! ## Fatal conditions -/

/-- A fatal condition on its way: its code and the information it records (00_scope.md R12, `Fatal(code, info)`). -/
structure Fatal where
  code : Fault
  info : Nat
  deriving DecidableEq, Repr

/-- The outcome of a step of this machine. -/
abbrev StepOutcome := Host.Outcome State Fault Refusal

/-- FAULT ENTRY (60_exceptions.md R228, R229): `fault <- (code, pc, opcode, info)` and nothing else changes. There is no
vector, mode or saved status, and no return from it (R220, R231): the core is halted until the host's reset
(`hostReset`, Machine/HostOps.lean). -/
def State.raiseFatal (f : Fatal) (s : State) : State := s.setFault (some ⟨f.code, s.pc, s.opcode, f.info⟩)

/-- Takes a fatal condition as a next state (log entry 1). -/
def takeFatal (f : Fatal) (s : State) : StepOutcome := .next (s.raiseFatal f)

/-- Ends an instruction that started in `s`: its effect when every check passed, else the fatal condition taken in `s`
itself, so that a fatal instruction writes nothing (00_scope.md R13, 60_exceptions.md R228). -/
def commit (s : State) : Except Fatal State → StepOutcome
  | .ok t => .next t
  | .error f => takeFatal f s

/-! ## Checked accesses -/

/-- `MemRead(a, 1)` (20_memory.md R51). -/
def memRead (s : State) (a : Nat) : Except Fatal Byte :=
  if a > 0xFFF then .error ⟨.memOutOfRange, a⟩ else .ok (s.readByte a)

/-- `MemWrite(a, 1, v)` (20_memory.md R52). -/
def memWrite (s : State) (a : Nat) (v : Byte) : Except Fatal State :=
  if a > 0xFFF then .error ⟨.memOutOfRange, a⟩ else .ok (s.writeByte a v)

/-- `CheckRange(base, count)` (42_index_memory.md R160), in unbounded integers: the recorded address is the lowest one
outside 0x000-0xFFF. -/
def checkRange (base count : Nat) : Except Fatal Unit :=
  if count > 0 ∧ base + count - 1 > 0xFFF then .error ⟨.memOutOfRange, max base 0x1000⟩ else .ok ()

/-- `count` bytes read from consecutive ascending addresses (20_memory.md R56). -/
def loadBytes (s : State) : Nat → Nat → Except Fatal (List Byte)
  | _, 0 => .ok []
  | a, n + 1 => do
    let b ← memRead s a
    let bs ← loadBytes s (a + 1) n
    return b :: bs

/-- Bytes written at consecutive ascending addresses (20_memory.md R56). -/
def storeBytes : Nat → List Byte → State → Except Fatal State
  | _, [], s => .ok s
  | a, b :: bs, s => do
    let t ← memWrite s a b
    storeBytes (a + 1) bs t

/-- The push of `2NNN` (40_control_flow.md R103): fatal with all 16 slots occupied. -/
def pushSlot (v : Word) (s : State) : Except Fatal State :=
  if h : s.sp.val < 16 then
    .ok ((s.setStack (s.stack.set s.sp.val v)).setSp ⟨s.sp.val + 1, by omega⟩)
  else .error ⟨.stackOverflow, s.sp.val⟩

/-- The pop of `00EE` (40_control_flow.md R101): the popped value and the state with `sp` lowered; the slot keeps its
value (10_state.md R30); fatal with an empty stack. -/
def popSlot (s : State) : Except Fatal (Word × State) :=
  if h : s.sp.val = 0 then .error ⟨.stackUnderflow, s.sp.val⟩
  else .ok (s.stack[s.sp.val - 1]'(by omega), s.setSp ⟨s.sp.val - 1, by omega⟩)

/-! ## The random source -/

/-- The byte the next draw gives: the first injected byte, or the free value when none is left (41_alu.md R145; log
entry 6). -/
def State.nextRandom (s : State) : Byte :=
  match s.randomIn with
  | b :: _ => b
  | [] => freeRandomByte s.randomDraws

/-- The random source after one draw. -/
def State.consumeRandom (s : State) : State := s.setRandom s.randomIn.tail (s.randomDraws + 1)

end Sys2Proof.Machine
end

