-- ==== Sys2Proof/Machine/Operands.lean ====
section
/-! DEFINITION. The operand forms: immediates, address operands, index-based data addresses, key numbers and register
ranges (30_encoding.md R73, 42_index_memory.md R167). -/

namespace Sys2Proof.Machine

/-- `zext_16(NNN)` (30_encoding.md R73). -/
def addrOperand (nnn : BitVec 12) : Word := nnn.zeroExtend 16

/-- A byte zero-extended to 16 bits (30_encoding.md R73). -/
def zext16 (v : Byte) : Word := v.zeroExtend 16

/-- The address of a block access's first byte, as an unbounded integer; element k is at `+ k`, without wrap
(20_memory.md R58). -/
def State.dataBase (s : State) : Nat := s.index.toNat

/-- The key a register names (44_keys_timers.md R200): fatal above 0xF. -/
def keyOperand (s : State) (x : RegIdx) : Except Fatal KeyIdx :=
  if h : (s.readReg x).toNat < 16 then .ok ⟨(s.readReg x).toNat, h⟩
  else .error ⟨.keyOutOfRange, (s.readReg x).toNat⟩

/-- The values of `reg[0]` to `reg[x]` in order (42_index_memory.md R165). -/
def State.regRange (s : State) (x : RegIdx) : List Byte := s.reg.toList.take (x.val + 1)

/-- Bytes written to `reg[i]`, `reg[i+1]`, … in order. -/
def writeRegRange : Nat → List Byte → Vector Byte 16 → Vector Byte 16
  | _, [], r => r
  | i, b :: bs, r => writeRegRange (i + 1) bs (r.setIfInBounds i b)

/-- The hundreds, tens and ones digits of a byte (42_index_memory.md R164). -/
def decimalDigits (v : Byte) : List Byte := [v / 100, v / 10 % 10, v % 10]

end Sys2Proof.Machine
end

