-- ==== Sys2Proof/Machine/Alu.lean ====
section
/-! DEFINITION. Register file and ALU: load, add, logic, subtract, shift, random (41_alu.md). -/

namespace Sys2Proof.Machine

/-- A result written to `reg[x]` and `pc` advanced, for the instructions that write no flag. -/
def State.writeResult (x : RegIdx) (v : Byte) (s : State) : State := (s.writeReg x v).advance

/-- The two writes of a flag-writing ALU instruction, flag first (41_alu.md R130). `Sequential`: the result statement
reads the registers as the flag statement left them. `Latched` (R142): both read the values at the start. In both, with
X = 0xF the result is what `reg[0xF]` finally holds. -/
def State.writeFlagged (flag result : Byte → Byte → Byte) (x y : RegIdx) (s : State) : State :=
  match s.params.aluOrder with
  | .sequential =>
    let t := s.writeReg flagReg (flag (s.readReg x) (s.readReg y))
    t.writeReg x (result (t.readReg x) (t.readReg y))
  | .latched =>
    (s.writeReg flagReg (flag (s.readReg x) (s.readReg y))).writeReg x (result (s.readReg x) (s.readReg y))

/-- `6XNN` LD imm (R131). -/
def execLdImm (x : RegIdx) (nn : Byte) (s : State) : StepOutcome := .next (s.writeResult x nn)

/-- `7XNN` ADD imm (R132): no flag. -/
def execAddImm (x : RegIdx) (nn : Byte) (s : State) : StepOutcome := .next (s.writeResult x (s.readReg x + nn))

/-- `8XY0` LD reg (R133). -/
def execLdReg (x y : RegIdx) (s : State) : StepOutcome := .next (s.writeResult x (s.readReg y))

/-- `8XY1` OR (R134): `reg[0xF]` is not reset. -/
def execOrReg (x y : RegIdx) (s : State) : StepOutcome := .next (s.writeResult x (s.readReg x ||| s.readReg y))

/-- `8XY2` AND (R135): `reg[0xF]` is not reset. -/
def execAndReg (x y : RegIdx) (s : State) : StepOutcome := .next (s.writeResult x (s.readReg x &&& s.readReg y))

/-- `8XY3` XOR (R136): `reg[0xF]` is not reset. -/
def execXorReg (x y : RegIdx) (s : State) : StepOutcome := .next (s.writeResult x (s.readReg x ^^^ s.readReg y))

/-- `8XY4` ADD reg (R137): flag = carry out. -/
def execAddReg (x y : RegIdx) (s : State) : StepOutcome :=
  .next (s.writeFlagged carryFlag (fun vx vy => vx + vy) x y).advance

/-- `8XY5` SUB (R138): flag = not borrow of `reg[x] - reg[y]`. -/
def execSubReg (x y : RegIdx) (s : State) : StepOutcome :=
  .next (s.writeFlagged notBorrowFlag (fun vx vy => vx - vy) x y).advance

/-- `8XY6` SHR (R139): flag = bit 0 before the shift; the Y field selects nothing. -/
def execShr (x y : RegIdx) (s : State) : StepOutcome :=
  .next (s.writeFlagged (fun vx _ => lsbFlag vx) (fun vx _ => vx >>> 1) x y).advance

/-- `8XY7` SUBN (R140): flag = not borrow of `reg[y] - reg[x]`. -/
def execSubnReg (x y : RegIdx) (s : State) : StepOutcome :=
  .next (s.writeFlagged (fun vx vy => notBorrowFlag vy vx) (fun vx vy => vy - vx) x y).advance

/-- `8XYE` SHL (R141): flag = bit 7 before the shift; the Y field selects nothing. -/
def execShl (x y : RegIdx) (s : State) : StepOutcome :=
  .next (s.writeFlagged (fun vx _ => msbFlag vx) (fun vx _ => vx <<< 1) x y).advance

/-- `CXNN` RND (R145): one draw, masked. -/
def execRnd (x : RegIdx) (nn : Byte) (s : State) : StepOutcome :=
  .next (s.consumeRandom.writeResult x (nn &&& s.nextRandom))

end Sys2Proof.Machine
end

