-- ==== Sys2Proof/Machine/ControlFlow.lean ====
section
/-! DEFINITION. Control transfer: return, jump, call, skips on registers, indexed jump (40_control_flow.md). -/

namespace Sys2Proof.Machine

/-- `00EE` RET (R101): pop the address of the call and resume at the word after it. -/
def execRet (s : State) : StepOutcome :=
  commit s do
    let (ra, t) ← popSlot s
    return t.setPc (ra + 2)

/-- `1NNN` JP (R102). -/
def execJp (nnn : BitVec 12) (s : State) : StepOutcome := .next (s.setPc (addrOperand nnn))

/-- `2NNN` CALL (R103): push the address of this instruction, then jump. -/
def execCall (nnn : BitVec 12) (s : State) : StepOutcome :=
  commit s do
    let t ← pushSlot s.pc s
    return t.setPc (addrOperand nnn)

/-- `3XNN` SE imm (R104). -/
def execSeImm (x : RegIdx) (nn : Byte) (s : State) : StepOutcome := .next (s.skipIf (s.readReg x == nn))

/-- `4XNN` SNE imm (R105). -/
def execSneImm (x : RegIdx) (nn : Byte) (s : State) : StepOutcome := .next (s.skipIf (s.readReg x != nn))

/-- `5XY0` SE reg (R106). -/
def execSeReg (x y : RegIdx) (s : State) : StepOutcome := .next (s.skipIf (s.readReg x == s.readReg y))

/-- `9XY0` SNE reg (R107). -/
def execSneReg (x y : RegIdx) (s : State) : StepOutcome := .next (s.skipIf (s.readReg x != s.readReg y))

/-- `BNNN` JP V0 (R108): the register added is always `reg[0]`. -/
def execJpV0 (nnn : BitVec 12) (s : State) : StepOutcome :=
  .next (s.setPc (addrOperand nnn + zext16 (s.readReg 0)))

end Sys2Proof.Machine
end

