-- ==== Sys2Proof/Machine/Display.lean ====
section
/-! DEFINITION. Frame buffer, sprite draw and collision detector (43_display.md). -/

namespace Sys2Proof.Machine

/-- A frame buffer with every pixel 0 (R181). -/
def blankFb : FrameBuffer := Vector.replicate 32 (Vector.replicate 64 false)

/-- `fb[y][x]`, column x and row y (R180); no pixel outside the grid is lit. -/
def pixelAt (fb : FrameBuffer) (x y : Nat) : Bool := if h : x < 64 ∧ y < 32 then fb[y][x] else false

/-- `fb[y][x] <- v`; nothing outside the grid. -/
def setPixel (fb : FrameBuffer) (x y : Nat) (v : Bool) : FrameBuffer :=
  if h : x < 64 ∧ y < 32 then fb.set y (fb[y].set x v) else fb

/-- The pixel of sprite byte `b` in column `col`: bit `7 - col`, most significant bit first (R180). -/
def spriteBit (b : Byte) (col : Nat) : Bool := b.getLsbD (7 - col)

/-- One sprite pixel at column `px`, row `py` (R182): a set bit inside the grid flips the pixel, and is a collision when
the pixel was lit (R183); outside the grid it is skipped, with no wrap (R184). The pair is frame buffer and collision. -/
def drawPixel (acc : FrameBuffer × Bool) (px py : Nat) (bit : Bool) : FrameBuffer × Bool :=
  if px < 64 ∧ py < 32 ∧ bit = true then
    (setPixel acc.1 px py (!pixelAt acc.1 px py), acc.2 || pixelAt acc.1 px py)
  else acc

/-- One sprite row: columns 0 to 7 of byte `b` (R182). -/
def drawRow (b : Byte) (cx py : Nat) (acc : FrameBuffer × Bool) : FrameBuffer × Bool :=
  (List.range 8).foldl (fun a col => drawPixel a (cx + col) py (spriteBit b col)) acc

/-- The sprite's rows from row `cy` down (R182). -/
def drawRows : List Byte → Nat → Nat → FrameBuffer × Bool → FrameBuffer × Bool
  | [], _, _, acc => acc
  | b :: bs, cx, cy, acc => drawRows bs cx (cy + 1) (drawRow b cx cy acc)

/-- `00E0` CLS (R181). -/
def execCls (s : State) : StepOutcome := .next ((s.setFb blankFb).setDrawFlag true).advance

/-- `DXYN` DRW (R182): the coordinates are read before `reg[0xF]` is written. -/
def execDrw (x y : RegIdx) (n : Nat) (s : State) : StepOutcome :=
  commit s do
    checkRange s.dataBase n
    let bytes ← loadBytes s s.dataBase n
    let drawn := drawRows bytes (s.readReg x).toNat (s.readReg y).toNat (s.fb, false)
    return (((s.writeReg flagReg (collisionFlag drawn.2)).setFb drawn.1).setDrawFlag true).advance

end Sys2Proof.Machine
end

