-- ==== Sys2Proof/Machine/IndexMemory.lean ====
section
/-! DEFINITION. Index register and memory block instructions (42_index_memory.md). -/

namespace Sys2Proof.Machine

/-- `ANNN` LD I (R161). -/
def execLdI (nnn : BitVec 12) (s : State) : StepOutcome := .next (s.setIndex (addrOperand nnn)).advance

/-- `FX1E` ADD I (R162): modulo 2^16, no flag. -/
def execAddI (x : RegIdx) (s : State) : StepOutcome := .next (s.setIndex (s.index + zext16 (s.readReg x))).advance

/-- `FX29` LD F (R163): the whole register times 5, not masked. -/
def execLdF (x : RegIdx) (s : State) : StepOutcome := .next (s.setIndex (5 * zext16 (s.readReg x))).advance

/-- `FX33` LD B (R164): the decimal digits of `reg[x]` at `index`, `index + 1`, `index + 2`. -/
def execLdB (x : RegIdx) (s : State) : StepOutcome :=
  commit s do
    checkRange s.dataBase 3
    let t ← storeBytes s.dataBase (decimalDigits (s.readReg x)) s
    return t.advance

/-- `FX55` LD [I] (R165): `reg[0]` to `reg[x]` stored from `index` up. -/
def execStRegs (x : RegIdx) (s : State) : StepOutcome :=
  commit s do
    checkRange s.dataBase (x.val + 1)
    let t ← storeBytes s.dataBase (s.regRange x) s
    return t.advance

/-- `FX65` LD Vx, [I] (R166): `reg[0]` to `reg[x]` loaded from `index` up. -/
def execLdRegs (x : RegIdx) (s : State) : StepOutcome :=
  commit s do
    checkRange s.dataBase (x.val + 1)
    let bytes ← loadBytes s s.dataBase (x.val + 1)
    return (s.setRegs (writeRegRange 0 bytes s.reg)).advance

end Sys2Proof.Machine
end

