-- ==== Sys2Proof/Machine/KeysTimers.lean ====
section
/-! DEFINITION. Key-conditional skips, key wait and timer access (44_keys_timers.md). -/

namespace Sys2Proof.Machine

/-- The lowest pressed key among keys 0 to `last` (R204). -/
def firstPressed (key : Vector Bool 16) (last : Nat) : Option KeyIdx :=
  (List.finRange 16).find? fun k => k.val ≤ last && key[k]

/-- `EX9E` SKP (R201). -/
def execSkp (x : RegIdx) (s : State) : StepOutcome :=
  commit s do
    let k ← keyOperand s x
    return s.skipIf s.key[k]

/-- `EXA1` SKNP (R202). -/
def execSknp (x : RegIdx) (s : State) : StepOutcome :=
  commit s do
    let k ← keyOperand s x
    return s.skipIf (!s.key[k])

/-- `FX07` LD Vx, DT (R203). -/
def execLdVxDt (x : RegIdx) (s : State) : StepOutcome := .next (s.writeReg x s.delay).advance

/-- `FX0A` LD Vx, K (R204): with no key found, nothing is written and `pc` stays, so that the next cycle runs it again. -/
def execLdVxK (x : RegIdx) (s : State) : StepOutcome :=
  match firstPressed s.key s.params.fx0aLastKey.toNat with
  | some k => .next (s.writeReg x (BitVec.ofNat 8 k.val)).advance
  | none => .next s

/-- `FX15` LD DT, Vx (R205). -/
def execLdDtVx (x : RegIdx) (s : State) : StepOutcome := .next (s.setDelay (s.readReg x)).advance

/-- `FX18` LD ST, Vx (R206). -/
def execLdStVx (x : RegIdx) (s : State) : StepOutcome := .next (s.setSound (s.readReg x)).advance

end Sys2Proof.Machine
end

