-- ==== Sys2Proof/Machine/Cycle.lean ====
section
/-! DEFINITION. The instruction cycle: fetch, decode, execute, timer tick (30_encoding.md R79 to R85). -/

namespace Sys2Proof.Machine

/-- Fetch (R80): two bytes at `pc` and `pc + 1`, the first in bits 15-8; fatal when `pc + 1` is above 0xFFF. -/
def fetch (s : State) : Except Fatal Word :=
  if s.pc.toNat + 1 > 0xFFF then .error ⟨.fetchOutOfRange, s.pc.toNat⟩
  else .ok (wordOfBytes (s.readByte s.pc.toNat) (s.readByte (s.pc.toNat + 1)))

/-- One timer's tick (R83): down by one while nonzero. -/
def tickTimer (t : Byte) : Byte := if t.toNat > 0 then t - 1 else t

/-- TimerTick (R83). -/
def timerTick (s : State) : State := (s.setDelay (tickTimer s.delay)).setSound (tickTimer s.sound)

/-- The end of a cycle: the tick, unless this cycle raised a fatal condition (R83). -/
def endCycle : StepOutcome → StepOutcome
  | .next t =>
    match t.fault with
    | none => .next (timerTick t)
    | some _ => .next t
  | .fault r => .fault r
  | .refused r => .refused r

/-- Decode and execute the fetched word (R81, R82); `opcode` holds it. -/
def runWord (w : Word) (s : State) : StepOutcome :=
  match decodeWord w with
  | .ok i => endCycle (exec i s)
  | .error _ => takeFatal ⟨.unrecognizedOpcode, w.toNat⟩ s

/-- `step_cycle` (R79): a halted core changes nothing (R85). -/
def stepCycle (s : State) : StepOutcome :=
  match s.fault with
  | some _ => .next s
  | none =>
    match fetch s with
    | .error f => takeFatal f s
    | .ok w => runWord w (s.setOpcode w)

/-- A word stored where the next fetch reads it: big-endian at `pc` and `pc + 1` (20_memory.md R55). A `pc` that no fetch
can read from leaves the state as it is. -/
def placeWord (w : Word) (s : State) : State :=
  if s.pc.toNat + 1 > 0xFFF then s else State.writeBytes s.pc.toNat (bytesOfWord w) s

end Sys2Proof.Machine
end

