-- ==== Sys2Proof/Machine/Step.lean ====
section
/-! DEFINITION. The step of the machine: one `step_cycle` (30_encoding.md R79). -/

namespace Sys2Proof.Machine

/-- One step is one cycle. -/
def step (s : State) : Host.Outcome State Fault Refusal := stepCycle s

/-- `s` with the opcode table's number `w` of `nbits` bits stored where `step` fetches its next instruction. It stands for
the load of a program from outside (log entry 9). -/
def State.withFetchWord (s : State) (nbits w : Nat) : State := placeWord (tableWord nbits w) s

end Sys2Proof.Machine
end

