-- ==== Sys2Proof/Machine/HostOps.lean ====
section
/-! DEFINITION. The host operations and outputs (70_reset_and_hazards.md R256), each atomic and between cycles (R257). -/

namespace Sys2Proof.Machine

/-- `reset` (R250), accepted in every state, halted or not, and the only way out of a halt (60_exceptions.md R231). The
core's parameters stay, and the random source, which is no part of the core, goes on where it was (log entry 7). -/
def hostReset (s : State) : State := (State.resetWith s.params).setRandom s.randomIn s.randomDraws

/-- `load_program` (R252, R253): the bytes placed from 0x200 up, or turned away whole. -/
def loadProgram (bytes : List Byte) (s : State) : StepOutcome :=
  if programFits bytes then .next (State.writeBytes 0x200 bytes s) else .refused (.programTooLarge bytes.length)

/-- The code number a refusal reports to the host: PROGRAM_TOO_LARGE is row 7 of 60_exceptions.md R220's table (R253). No
other refusal is a condition of that table. -/
def Refusal.code : Refusal → Option Nat
  | .programTooLarge _ => some 7
  | _ => none

/-- The information a refusal reports beside its code: the length of the program (60_exceptions.md R220, row 7). -/
def Refusal.info : Refusal → Option Nat
  | .programTooLarge length => some length
  | _ => none

/-- What a host operation returns to the host as its error: code and information, or none where it was carried out (R253). A
fatal condition of a cycle is no such error: it stands in the fault record (`faultOut`). -/
def errorOut : StepOutcome → Option (Nat × Nat)
  | .next _ => none
  | .fault _ => none
  | .refused r =>
    match r.code, r.info with
    | some code, some info => some (code, info)
    | _, _ => none

/-- `set_keys` (R254): the key state replaced wholesale. -/
def setKeys (states : Vector Bool 16) (s : State) : State := s.setKey states

/-- `ack_draw` (R255). -/
def ackDraw (s : State) : State := s.setDrawFlag false

/-- The host supplies bytes to the random source, after those it has already supplied (41_alu.md R145: "an injectable
byte-random source so tests can supply deterministic sequences"). -/
def injectRandom (bytes : List Byte) (s : State) : State := s.setRandom (s.randomIn ++ bytes) s.randomDraws

/-- Output `frame_buffer` (R256): the pixels, as a copy (20_memory.md R65). -/
def frameBufferOut (s : State) : FrameBuffer := s.fb

/-- Output `draw_flag` (R256). -/
def drawFlagOut (s : State) : Bool := s.drawFlag

/-- Output `sound_active` (10_state.md R38): the sound timer is nonzero. -/
def soundActive (s : State) : Bool := s.sound != 0

/-- Output `fault` (R256): code number, pc, opcode and info, or none. -/
def faultOut (s : State) : Option (Nat × Word × Word × Nat) :=
  s.fault.map fun r => (r.code.code, r.pc, r.opcode, r.info)

/-- Output `inspect` (60_exceptions.md R238): every state element, read-only. -/
def inspect (s : State) : State := s

/-- What the host can do to the core (R256): its operations, with the random source's input. -/
inductive HostOp where
  | reset
  | loadProgram (bytes : List Byte)
  | setKeys (states : Vector Bool 16)
  | stepCycle
  | ackDraw
  | injectRandom (bytes : List Byte)
  deriving DecidableEq, Repr

/-- One host operation. -/
def hostStep (op : HostOp) (s : State) : StepOutcome :=
  match op with
  | .reset => .next (hostReset s)
  | .loadProgram bytes => loadProgram bytes s
  | .setKeys states => .next (setKeys states s)
  | .stepCycle => step s
  | .ackDraw => .next (ackDraw s)
  | .injectRandom bytes => .next (injectRandom bytes s)

/-- A run is a finite sequence of host operations; its end is the state after the last one (R260). A load that is turned
away changes nothing and the run goes on (R253). -/
def hostRun : List HostOp → State → State
  | [], s => s
  | op :: ops, s =>
    match hostStep op s with
    | .next t => hostRun ops t
    | .fault _ => hostRun ops s
    | .refused _ => hostRun ops s

end Sys2Proof.Machine
end

