-- ==== Sys2Proof/Safety.lean ====
section
/-! DEFINITION. What counts as a safe run, and the invariant of the machine, in the terms claims use. -/

namespace Sys2Proof.Machine

/-- The core is running: no fatal condition has been raised (10_state.md R37). -/
def State.Running (s : State) : Prop := s.fault = none

/-- `k` cycles from `s` end in a running state. A faulted state is halted, never a successful end
(70_reset_and_hazards.md R260). -/
def SafeFor (k : Nat) (s : State) : Prop := ∃ t : State, Sys2Proof.core.run k s = .next t ∧ t.Running

/-- What holds of every state a run can reach: memory is in its canonical form (so no cell lies outside 0x000-0xFFF),
`pc` never exceeds 0x10FE, and no slot holds an address above the highest one a call can be fetched from
(10_state.md R26). -/
structure State.Inv (s : State) : Prop where
  mem_wf   : Memory.wf s.params.font s.mem = true
  pc_le    : s.pc.toNat ≤ 0x10FE
  stack_le : ∀ (j : Nat) (h : j < 16), (s.stack[j]).toNat ≤ 0xFFE

end Sys2Proof.Machine
end

