-- ==== Sys2Proof/Certificates/Slice0/Obligations.lean ====
section
/-! DEFINITION. The statements for the provers, taken from the numbered rules of spec/. The helper predicates stand first,
under `Sys2Proof.Claims`; each obligation is one `def Obligations.<Name> : Prop`. -/

namespace Sys2Proof.Claims

open Sys2Proof Sys2Proof.Machine Sys2Proof.Config

/-! ## Operand fields and rows, written from 30_encoding.md R71 and R75 as arithmetic on the word's number -/

/-- `X` = opcode[11:8]. -/
def opX (w : Word) : RegIdx := Fin.ofNat 16 (w.toNat / 256)
/-- `Y` = opcode[7:4]. -/
def opY (w : Word) : RegIdx := Fin.ofNat 16 (w.toNat / 16)
/-- `N` = opcode[3:0]. -/
def opN (w : Word) : Nat := w.toNat % 16
/-- `NN` = opcode[7:0]. -/
def opNN (w : Word) : Byte := BitVec.ofNat 8 w.toNat
/-- `NNN` = opcode[11:0]. -/
def opNNN (w : Word) : BitVec 12 := BitVec.ofNat 12 w.toNat

/-- Every word whose masked bits have the row's value decodes to the row's instruction, with the operands `f` reads. -/
def RowDecodes (mask value : Word) (f : Word → Instr) : Prop :=
  ∀ w : Word, w &&& mask = value → decodeWord w = .ok (f w)

/-! ## What an instruction did, with its frame -/

/-- Every byte of memory reads as before. -/
def SameBytes (s t : State) : Prop := ∀ a : Nat, t.readByte a = s.readByte a

/-- `i` completes in `s`: it writes `v` to `reg[x]`, advances `pc` by 2, and changes nothing else at all (the record
equation: no other register, flag, timer, pixel, stack slot or byte of memory). -/
def WritesReg (i : Instr) (s : State) (x : RegIdx) (v : Byte) : Prop :=
  ∃ t : State, exec i s = .next t ∧ t.reg[x] = v ∧ (∀ r : RegIdx, r ≠ x → t.reg[r] = s.reg[r]) ∧
    t = { s with reg := t.reg, pc := s.pc + 2 } ∧ SameBytes s t

/-- `i` completes in `s`: it writes `p` to `pc` and changes nothing else at all. -/
def WritesPc (i : Instr) (s : State) (p : Word) : Prop :=
  ∃ t : State, exec i s = .next t ∧ t = { s with pc := p } ∧ SameBytes s t

/-- `i` completes in `s`: it writes `v` to `index`, advances `pc` by 2, and changes nothing else at all. -/
def WritesIndex (i : Instr) (s : State) (v : Word) : Prop :=
  ∃ t : State, exec i s = .next t ∧ t = { s with index := v, pc := s.pc + 2 } ∧ SameBytes s t

/-- `i` takes the fatal condition `c` in `s`: the fault record is written and nothing else changes. -/
def TakesFatal (i : Instr) (s : State) (c : Fault) (info : Nat) : Prop :=
  exec i s = .next { s with fault := some ⟨c, s.pc, s.opcode, info⟩ }

/-- The value the result statement of a flag-writing ALU instruction reads for `reg[r]`, when the flag statement wrote
`flag`: under `Sequential`, `reg[0xF]` is that flag; under `Latched` it is the value at the start (41_alu.md R130, R142). -/
def resultOperand (s : State) (flag : Byte) (r : RegIdx) : Byte :=
  if s.params.aluOrder = .sequential ∧ r = 15 then flag else s.reg[r]

/-- `i` completes in `s`: it writes `flag` to `reg[0xF]` and then `result` of its operands to `reg[x]`, advances `pc` by 2,
and changes nothing else at all. -/
def WritesFlagged (i : Instr) (x y : RegIdx) (s : State) (flag : Byte) (result : Byte → Byte → Byte) : Prop :=
  ∃ t : State, exec i s = .next t ∧
    t.reg[x] = result (resultOperand s flag x) (resultOperand s flag y) ∧
    (x ≠ 15 → t.reg[(15 : RegIdx)] = flag) ∧
    (∀ r : RegIdx, r ≠ x → r ≠ 15 → t.reg[r] = s.reg[r]) ∧
    t = { s with reg := t.reg, pc := s.pc + 2 } ∧ SameBytes s t

/-- `i` completes in `s`: it changes memory only at the addresses from `lo` to `hi` (both included), advances `pc` by 2,
and changes nothing else at all. The state after it is handed to `post`. -/
def Stores (i : Instr) (s : State) (lo hi : Nat) (post : State → Prop) : Prop :=
  ∃ t : State, exec i s = .next t ∧ (∀ a : Nat, a < lo ∨ hi < a → t.readByte a = s.readByte a) ∧
    t = { s with mem := t.mem, pc := s.pc + 2 } ∧ post t

/-! ## Cycles -/

/-- The word the fetch reads at `pc`, as 20_memory.md R55 writes it. -/
def wordAtPc (s : State) : Word :=
  BitVec.ofNat 16 ((s.readByte s.pc.toNat).toNat * 256 + (s.readByte (s.pc.toNat + 1)).toNat)

/-- The core is running, can fetch at `pc`, and the fetched word is the instruction `i`. -/
def Runs (s : State) (i : Instr) : Prop :=
  s.fault = none ∧ s.pc.toNat + 1 ≤ 0xFFF ∧ decodeWord (wordAtPc s) = .ok i

/-- A timer one tick later (30_encoding.md R83). -/
def ticked (t : Byte) : Byte := if t = 0 then 0 else t - 1

/-- What the end of a cycle makes of the executed instruction's outcome: the tick, if no fatal condition was raised. -/
def cycleEnd : StepOutcome → StepOutcome
  | .next t => if t.fault = none then .next { t with delay := ticked t.delay, sound := ticked t.sound } else .next t
  | .fault r => .fault r
  | .refused r => .refused r

/-- `delay` after the execute step and before the tick. -/
def delayExecuted (i : Instr) (s : State) : Byte :=
  match i with
  | .ldDtVx x => s.reg[x]
  | _ => s.delay

/-- `sound` after the execute step and before the tick. -/
def soundExecuted (i : Instr) (s : State) : Byte :=
  match i with
  | .ldStVx x => s.reg[x]
  | _ => s.sound

/-- The fatal condition the rule of `i` raises in `s`, with the information it records, if any
(60_exceptions.md R220, R223 to R226; 42_index_memory.md R160). -/
def raisedBy (i : Instr) (s : State) : Option (Fault × Nat) :=
  match i with
  | .ret => if s.sp.val = 0 then some (.stackUnderflow, 0) else none
  | .call _ => if s.sp.val = 16 then some (.stackOverflow, 16) else none
  | .drw _ _ n =>
    if n > 0 ∧ s.index.toNat + n - 1 > 0xFFF then some (.memOutOfRange, max s.index.toNat 0x1000) else none
  | .ldB _ => if s.index.toNat + 2 > 0xFFF then some (.memOutOfRange, max s.index.toNat 0x1000) else none
  | .stRegs x => if s.index.toNat + x.val > 0xFFF then some (.memOutOfRange, max s.index.toNat 0x1000) else none
  | .ldRegs x => if s.index.toNat + x.val > 0xFFF then some (.memOutOfRange, max s.index.toNat 0x1000) else none
  | .skp x => if (s.reg[x]).toNat > 0xF then some (.keyOutOfRange, (s.reg[x]).toNat) else none
  | .sknp x => if (s.reg[x]).toNat > 0xF then some (.keyOutOfRange, (s.reg[x]).toNat) else none
  | _ => none

/-- The fatal condition a cycle raises in a running state, in the order fetch, decode, execute (60_exceptions.md R230). -/
def cycleRaises (s : State) : Option (Fault × Nat) :=
  if s.pc.toNat + 1 > 0xFFF then some (.fetchOutOfRange, s.pc.toNat)
  else
    match decodeWord (wordAtPc s) with
    | .error _ => some (.unrecognizedOpcode, (wordAtPc s).toNat)
    | .ok i => raisedBy i s

/-! ## The writers of the general registers (10_state.md R22, R23) -/

/-- The six instructions that write `reg[0xF]` whatever their X field. -/
def flagWriter : Instr → Bool
  | .addReg _ _ | .subReg _ _ | .shr _ _ | .subnReg _ _ | .shl _ _ | .drw _ _ _ => true
  | _ => false

/-- `reg[r]` is a destination of `i`: its X field (for `FX65` any register up to X), the flag aside. -/
def destination (i : Instr) (r : RegIdx) : Bool :=
  match i with
  | .ldImm x _ | .addImm x _ | .rnd x _ => r = x
  | .ldReg x _ | .orReg x _ | .andReg x _ | .xorReg x _ => r = x
  | .addReg x _ | .subReg x _ | .shr x _ | .subnReg x _ | .shl x _ => r = x
  | .ldVxDt x | .ldVxK x => r = x
  | .ldRegs x => r ≤ x
  | _ => false

/-! ## Sprites -/

/-- The sprite of `DXYN` drawn in `s` has a set bit over column `px`, row `py`: bit `7 - c` of the byte at `index + r`
for column c, row r of the sprite, whose corner is (reg[X], reg[Y]) with no wrap (43_display.md R180, R184). -/
def spriteBitOver (s : State) (x y : RegIdx) (n px py : Nat) : Prop :=
  ∃ c r : Nat, c < 8 ∧ r < n ∧ px = (s.reg[x]).toNat + c ∧ py = (s.reg[y]).toNat + r ∧
    (s.readByte (s.index.toNat + r)).getLsbD (7 - c) = true

end Sys2Proof.Claims

open Sys2Proof Sys2Proof.Machine Sys2Proof.Config Sys2Proof.Claims

/-! ## Encoding -/

/-- Words written out from the formats of 30_encoding.md R72 (and the source's own 0x6A2F, R71) decode to the instruction
they stand for, one or more of every format and family. -/
def Obligations.WordsOfTheFormatsDecode : Prop :=
  decodeWord 0b0000000011100000 = .ok .cls ∧
  decodeWord 0b0000000011101110 = .ok .ret ∧
  decodeWord 0b0010001000010000 = .ok (.call 0x210) ∧
  decodeWord 0b0110101000101111 = .ok (.ldImm 0xA 0x2F) ∧
  decodeWord 0b1000000100100101 = .ok (.subReg 1 2) ∧
  decodeWord 0b1101000100100101 = .ok (.drw 1 2 5) ∧
  decodeWord 0b1110000110100001 = .ok (.sknp 1) ∧
  decodeWord 0b1111101000110011 = .ok (.ldB 0xA)

/-- Decode and encode agree on every well-formed instruction, whatever bytes follow it (30_encoding.md R70 to R75). -/
def Obligations.DecodeOfEncodeIsTheInstruction : Prop :=
  ∀ (i : Instr) (rest : List Byte), i.wf = true → decode (encodeBytes i ++ rest) = .ok (i, rest)

/-- Every recognized word is the word of exactly the instruction it decodes to, which is well formed. -/
def Obligations.EncodeOfDecodeIsTheWord : Prop :=
  ∀ (w : Word) (i : Instr), decodeWord w = .ok i → i.wf = true ∧ encode i = w

/-- Decode follows the opcode table: no word satisfies two rows, a word is recognized exactly when it satisfies a row, and
then it decodes to an instance of that row's pattern (30_encoding.md R77, the spec's own inference from R75). -/
def Obligations.OpcodeTableDecidesDecoding : Prop :=
  (∀ (w : Word) (r₁ r₂ : OpcodeRow), r₁ ∈ opcodeTable → r₂ ∈ opcodeTable →
    r₁.matchesWord w = true → r₂.matchesWord w = true → r₁ = r₂) ∧
  (∀ (w : Word) (r : OpcodeRow), r ∈ opcodeTable → r.matchesWord w = true →
    ∃ i : Instr, decodeWord w = .ok i ∧ i.pattern = r.pattern) ∧
  (∀ (w : Word) (i : Instr), decodeWord w = .ok i →
    ∃ r : OpcodeRow, r ∈ opcodeTable ∧ r.matchesWord w = true ∧ r.pattern = i.pattern)

/-- The unrecognized words are exactly the six spaces of 30_encoding.md R76 (the spec's own inference from R75). -/
def Obligations.UnrecognizedWordsAreTheSixSpaces : Prop :=
  ∀ w : Word, decodeWord w = .error (.unrecognized w) ↔
    (w.toNat ≤ 0x0FFF ∧ w ≠ 0x00E0 ∧ w ≠ 0x00EE) ∨
    (w.toNat / 4096 = 5 ∧ w.toNat % 16 ≠ 0) ∨
    (w.toNat / 4096 = 8 ∧ w.toNat % 16 ∈ [0x8, 0x9, 0xA, 0xB, 0xC, 0xD, 0xF]) ∨
    (w.toNat / 4096 = 9 ∧ w.toNat % 16 ≠ 0) ∨
    (w.toNat / 4096 = 0xE ∧ w.toNat % 256 ∉ [0x9E, 0xA1]) ∨
    (w.toNat / 4096 = 0xF ∧ w.toNat % 256 ∉ [0x07, 0x0A, 0x15, 0x18, 0x1E, 0x29, 0x33, 0x55, 0x65])

/-! ## The cycle -/

/-- Fetch (30_encoding.md R80, 20_memory.md R55): fatal exactly when `pc + 1 > 0xFFF`, else the big-endian word of the two
bytes at `pc`. `pc` is no part of what fetch answers, so it does not change it; a running core that fetched has the word in
`opcode` at the end of the cycle. -/
def Obligations.FetchReadsTwoBytesBigEndian : Prop :=
  ∀ s : State,
    (s.pc.toNat + 1 > 0xFFF → fetch s = .error ⟨.fetchOutOfRange, s.pc.toNat⟩) ∧
    (s.pc.toNat + 1 ≤ 0xFFF → fetch s = .ok (wordAtPc s) ∧
      (wordAtPc s).toNat = (s.readByte s.pc.toNat).toNat * 256 + (s.readByte (s.pc.toNat + 1)).toNat ∧
      (s.fault = none → ∀ t : State, step s = .next t → t.opcode = wordAtPc s))

/-- A step runs the decoded instruction: when the bytes at `pc` decode to `i`, the instruction is well formed and the step
is `exec i` in the state with `opcode` loaded, followed by the tick unless a fatal condition was raised. -/
def Obligations.StepRunsTheDecodedInstruction : Prop :=
  ∀ (s : State) (b0 b1 : Byte) (i : Instr), s.fault = none → s.pc.toNat + 1 ≤ 0xFFF →
    s.readByte s.pc.toNat = b0 → s.readByte (s.pc.toNat + 1) = b1 → decode [b0, b1] = .ok (i, []) →
    i.wf = true ∧ step s = cycleEnd (exec i { s with opcode := b0 ++ b1 })

/-- TimerTick (30_encoding.md R83): in every cycle whose fetch, decode and execute raised no fatal condition, an `FX0A` that
found no key among them, each timer ends one below what execute left in it, clamped at zero; in a cycle that raised one it
keeps its value; `FX07` reads `delay` before the tick. -/
def Obligations.TimersTickAtTheEndOfEveryCompletedCycle : Prop :=
  ∀ s t : State, s.fault = none → step s = .next t →
    (t.fault = none → ∃ i : Instr, Runs s i ∧
      t.delay.toNat = (delayExecuted i s).toNat - 1 ∧ t.sound.toNat = (soundExecuted i s).toNat - 1 ∧
      (∀ x : RegIdx, i = .ldVxDt x → t.reg[x] = s.delay)) ∧
    (t.fault ≠ none → t.delay = s.delay ∧ t.sound = s.sound)

/-- Every cycle answers a next state: no state makes the step stop with a host fault or a refusal (log entry 1). -/
def Obligations.EveryCycleAnswersANextState : Prop :=
  (∀ s : State, ∃ t : State, step s = .next t) ∧ (∀ (i : Instr) (s : State), ∃ t : State, exec i s = .next t)

/-! ## Fatal conditions -/

/-- A halted core changes nothing (30_encoding.md R85; the spec's decision D8). -/
def Obligations.HaltedCoreChangesNothing : Prop :=
  ∀ s : State, s.fault ≠ none → step s = .next s

/-- Fault entry is precise, whatever raised it (60_exceptions.md R228; the spec's decisions D7, D9): a cycle that ends with
a fault record changed nothing but `opcode` (loaded exactly when the fetch succeeded) and the record, which holds the
address of the faulting instruction and the opcode. -/
def Obligations.FaultEntryIsPrecise : Prop :=
  ∀ s t : State, s.fault = none → step s = .next t → t.fault ≠ none →
    ∃ (c : Fault) (info : Nat),
      t = { s with opcode := t.opcode, fault := some ⟨c, s.pc, t.opcode, info⟩ } ∧
      (s.pc.toNat + 1 ≤ 0xFFF → t.opcode = wordAtPc s) ∧
      (s.pc.toNat + 1 > 0xFFF → t.opcode = s.opcode)

/-- A cycle raises a fatal condition exactly when a rule says so, and it is the one that rule names, with the information
of 60_exceptions.md R220's table; fetch comes before decode and decode before execute (R230). The codes and the record are
the spec's decision D9, the conditions on the stack, the keys and the addresses its decisions D3, D10, D4 and D6. -/
def Obligations.CycleFaultsExactlyWhenARuleSays : Prop :=
  ∀ s : State, s.fault = none →
    ∃ t : State, step s = .next t ∧ t.fault.map (fun r => (r.code, r.info)) = cycleRaises s

/-- After a fault only the host's reset clears the record (60_exceptions.md R231; the spec's decision D8). -/
def Obligations.OnlyResetLeavesAHalt : Prop :=
  ∀ (op : HostOp) (s t : State) (r : FaultRecord), s.fault = some r → hostStep op s = .next t →
    (op = .reset → t.fault = none) ∧ (op ≠ .reset → t.fault = some r)

/-! ## The invariant -/

/-- The state after reset meets the invariant, whatever the parameters. -/
def Obligations.ResetMeetsTheInvariant : Prop :=
  (∀ p : Params, (State.resetWith p).Inv) ∧ State.reset.Inv

/-- Every step keeps the invariant: memory stays in its canonical form inside 0x000-0xFFF, `pc` never exceeds 0x10FE and no
stack slot ever holds an address above 0xFFE, so that no `pc` sum wraps (10_state.md R26, the spec's own inference). -/
def Obligations.StepKeepsTheInvariant : Prop :=
  ∀ s t : State, s.Inv → step s = .next t → t.Inv

/-- Every run of host operations keeps the invariant (70_reset_and_hazards.md R256, R260). -/
def Obligations.EveryRunKeepsTheInvariant : Prop :=
  ∀ (ops : List HostOp) (s : State), s.Inv → (hostRun ops s).Inv

/-! ## Memory -/

/-- Memories in canonical form that read alike are equal data. -/
def Obligations.MemoriesThatReadAlikeAreEqual : Prop :=
  ∀ (font : Font) (m₁ m₂ : Memory), Memory.wf font m₁ = true → Memory.wf font m₂ = true →
    (∀ a : Nat, Memory.read font m₁ a = Memory.read font m₂ a) → m₁ = m₂

/-- The checked accesses (20_memory.md R51, R52): an address above 0xFFF is fatal, any other is read, or written with every
other byte unchanged; no address is protected. -/
def Obligations.AccessAboveFFFIsFatal : Prop :=
  ∀ (s : State) (a : Nat) (v : Byte),
    (a > 0xFFF → memRead s a = .error ⟨.memOutOfRange, a⟩ ∧ memWrite s a v = .error ⟨.memOutOfRange, a⟩) ∧
    (a ≤ 0xFFF → memRead s a = .ok (s.readByte a) ∧
      ∃ t : State, memWrite s a v = .ok t ∧ t.readByte a = v ∧ (∀ b : Nat, b ≠ a → t.readByte b = s.readByte b) ∧
        t = { s with mem := t.mem })

/-- The range check (42_index_memory.md R160; the spec's decision D7) fails exactly when a byte of the access lies above
0xFFF, naming the lowest such address, and after it has passed every access of the block succeeds. -/
def Obligations.RangeCheckDecidesTheBlock : Prop :=
  ∀ (s : State) (base : Nat) (bytes : List Byte),
    ((∃ k : Nat, k < bytes.length ∧ base + k > 0xFFF) →
      checkRange base bytes.length = .error ⟨.memOutOfRange, max base 0x1000⟩) ∧
    ((∀ k : Nat, k < bytes.length → base + k ≤ 0xFFF) →
      checkRange base bytes.length = .ok () ∧
      (∃ t : State, storeBytes base bytes s = .ok t) ∧
      (∃ l : List Byte, loadBytes s base bytes.length = .ok l ∧ l.length = bytes.length ∧
        ∀ k : Nat, k < bytes.length → l[k]? = some (s.readByte (base + k))))

/-- Code is memory: two bytes stored at `pc` and `pc + 1` are the word the next fetch reads, with nothing in between
(20_memory.md R56, R64, the spec's own inferences). -/
def Obligations.StoredBytesAreFetched : Prop :=
  ∀ (s : State) (b0 b1 : Byte), s.pc.toNat + 1 ≤ 0xFFF →
    fetch ((s.writeByte s.pc.toNat b0).writeByte (s.pc.toNat + 1) b1) =
      .ok (BitVec.ofNat 16 (b0.toNat * 256 + b1.toNat))

/-! ## Whole-machine rules: only these instructions change this state -/

/-- No cycle writes the key state (10_state.md R35, 44_keys_timers.md R200). The other two clauses are about fields of the
model's own, not state of the core (00_scope.md R8, 10_state.md R40; DESIGN CHOICE, log entries 2 and 6): no cycle writes the
parameters `params`, and only `CXNN` draws from the random source `randomIn`, `randomDraws`. -/
def Obligations.NoCycleWritesKeysOrParameters : Prop :=
  ∀ s t : State, step s = .next t → t.key = s.key ∧ t.params = s.params ∧
    (t.randomIn ≠ s.randomIn ∨ t.randomDraws ≠ s.randomDraws → ∃ (x : RegIdx) (nn : Byte), Runs s (.rnd x nn))

/-- `index` changes only through `ANNN`, `FX1E` and `FX29` (42_index_memory.md R167, 10_state.md R24). -/
def Obligations.IndexChangesOnlyThroughItsWriters : Prop :=
  ∀ s t : State, step s = .next t → t.index ≠ s.index →
    ∃ i : Instr, Runs s i ∧ ((∃ nnn, i = .ldI nnn) ∨ (∃ x, i = .addI x) ∨ (∃ x, i = .ldF x))

/-- A byte of memory changes only through `FX33` at `index` to `index + 2` or `FX55` at `index` to `index + X`
(20_memory.md R50, R59). -/
def Obligations.MemoryChangesOnlyThroughStores : Prop :=
  ∀ (s t : State) (a : Nat), step s = .next t → t.readByte a ≠ s.readByte a →
    ∃ i : Instr, Runs s i ∧ s.index.toNat ≤ a ∧
      ((∃ x, i = .ldB x ∧ a ≤ s.index.toNat + 2) ∨ (∃ x, i = .stRegs x ∧ a ≤ s.index.toNat + x.val))

/-- The call stack changes only through `2NNN` and `00EE`, and its slots only through `2NNN`
(10_state.md R28, R30). -/
def Obligations.StackChangesOnlyThroughCallAndReturn : Prop :=
  ∀ s t : State, step s = .next t →
    (t.stack ≠ s.stack → ∃ nnn, Runs s (.call nnn)) ∧
    (t.sp ≠ s.sp → Runs s .ret ∨ ∃ nnn, Runs s (.call nnn))

/-- The frame buffer changes only through `00E0` and `DXYN`, and a completed one sets the draw flag, which no cycle clears
(43_display.md R185, 10_state.md R34). -/
def Obligations.DisplayChangesOnlyThroughClearAndDraw : Prop :=
  ∀ s t : State, step s = .next t →
    (t.fb ≠ s.fb → Runs s .cls ∨ ∃ x y n, Runs s (.drw x y n)) ∧
    (s.drawFlag = true → t.drawFlag = true) ∧
    (s.fault = none → t.fault = none → (t.drawFlag = true ↔
      s.drawFlag = true ∨ Runs s .cls ∨ ∃ x y n, Runs s (.drw x y n)))

/-- `reg[0xF]` (10_state.md R22): every instruction but the six flag writers leaves it alone unless it is their X field
(for `FX65`, unless X = 0xF); a flag writer that completes and whose X field is another register (`DXYN` always) leaves a
flag, 0 or 1, in it. -/
def Obligations.FlagRegisterHasExactlySixImplicitWriters : Prop :=
  (∀ (i : Instr) (s t : State), exec i s = .next t → flagWriter i = false → destination i 15 = false →
    t.reg[(15 : RegIdx)] = s.reg[(15 : RegIdx)]) ∧
  (∀ (i : Instr) (s t : State), exec i s = .next t → s.fault = none → t.fault = none → flagWriter i = true →
    destination i 15 = false → t.reg[(15 : RegIdx)] = 0 ∨ t.reg[(15 : RegIdx)] = 1)

/-- The frame of every instruction on the general registers: only its destination registers, and for the six flag writers
`reg[0xF]`, can change (10_state.md R23, the spec's own inference). -/
def Obligations.OnlyDestinationRegistersChange : Prop :=
  ∀ (i : Instr) (s t : State) (r : RegIdx), exec i s = .next t → destination i r = false →
    (flagWriter i = false ∨ r ≠ 15) → t.reg[r] = s.reg[r]

/-! ## Reset and the host's operations -/

/-- Construction and reset are one operation (70_reset_and_hazards.md R251): the font set loaded, all other state zeroed,
`pc` at 0x200. The host's reset keeps the parameters and the random source, which are no part of the core (log entry 7). -/
def Obligations.ConstructionAndResetLoadTheFontAndZeroTheRest : Prop :=
  ∀ (s t : State) (p : Params), (t = State.resetWith p ∨ (p = s.params ∧ t = hostReset s)) →
    (∀ (a : Nat) (h : a < 80), t.readByte a = p.font[a]) ∧ (∀ a : Nat, 80 ≤ a → t.readByte a = 0) ∧
    (∀ r : RegIdx, t.reg[r] = 0) ∧ t.index = 0 ∧ t.pc = 0x200 ∧ (∀ j : Fin 16, t.stack[j] = 0) ∧ t.sp = 0 ∧
    t.delay = 0 ∧ t.sound = 0 ∧ (∀ (px py : Nat) (hx : px < 64) (hy : py < 32), t.fb[py][px] = false) ∧
    t.drawFlag = false ∧ (∀ k : KeyIdx, t.key[k] = false) ∧ t.opcode = 0 ∧ t.fault = none ∧ t.params = p

/-- `load_program` (70_reset_and_hazards.md R252, R253): up to 3584 bytes land at 0x200 and up, nothing else changes and no
error is returned; a longer program is turned away whole, with PROGRAM_TOO_LARGE, code 7, and its length, and a run goes on
from the state unchanged. That it is turned away and not cut is the spec's decision D16 (log entry 19, DESIGN CHOICE), the
number 7 its decision D9 (log entry 21). -/
def Obligations.LoadProgramPlacesTheImage : Prop :=
  ∀ (bytes : List Byte) (s : State),
    (bytes.length ≤ 3584 → ∃ t : State, loadProgram bytes s = .next t ∧
      (∀ i : Nat, (h : i < bytes.length) → t.readByte (0x200 + i) = bytes[i]) ∧
      (∀ a : Nat, a < 0x200 ∨ 0x200 + bytes.length ≤ a → t.readByte a = s.readByte a) ∧
      t = { s with mem := t.mem } ∧ errorOut (loadProgram bytes s) = none) ∧
    (bytes.length > 3584 → loadProgram bytes s = .refused (.programTooLarge bytes.length) ∧
      errorOut (loadProgram bytes s) = some (7, bytes.length) ∧ hostRun [.loadProgram bytes] s = s)

/-- `ack_draw` clears the draw flag, and nothing else clears it: no other host operation but reset, and no cycle
(70_reset_and_hazards.md R255). -/
def Obligations.OnlyAckDrawAndResetClearTheDrawFlag : Prop :=
  (∀ s : State, ackDraw s = { s with drawFlag := false }) ∧
  (∀ (op : HostOp) (s t : State), hostStep op s = .next t → s.drawFlag = true → t.drawFlag = false →
    op = .ackDraw ∨ op = .reset)

/-- `set_keys` replaces the key state wholesale and nothing else (70_reset_and_hazards.md R254). -/
def Obligations.SetKeysReplacesTheKeyState : Prop :=
  ∀ (states : Vector Bool 16) (s : State), ∃ t : State, hostStep (.setKeys states) s = .next t ∧
    (∀ k : KeyIdx, t.key[k] = states[k]) ∧ t = { s with key := t.key }

/-! ## Control transfer -/

/-- `1NNN` (40_control_flow.md R102): a jump changes `pc` only; the cycle that runs it ticks the timers like any other (so a
jump to its own address keeps them ticking), and a target of 0xFFF faults at the next fetch and not before: that last clause
rests on the spec's decision D4 (R109; log entry 11, DESIGN CHOICE). -/
def Obligations.JumpSetsPc : Prop :=
  RowDecodes 0xF000 0x1000 (fun w => .jp (opNNN w)) ∧
  (∀ (nnn : BitVec 12) (s : State), WritesPc (.jp nnn) s (BitVec.ofNat 16 nnn.toNat)) ∧
  (∀ (nnn : BitVec 12) (s : State), Runs s (.jp nnn) → ∃ t : State, step s = .next t ∧ t.fault = none ∧
    t.pc.toNat = nnn.toNat ∧ t.delay = ticked s.delay ∧ t.sound = ticked s.sound ∧
    (nnn = 0xFFF → fetch t = .error ⟨.fetchOutOfRange, 0xFFF⟩))

/-- `3XNN` and `4XNN` (40_control_flow.md R104, R105, by the skip pattern R100). -/
def Obligations.ImmediateSkipsFollowTheSkipPattern : Prop :=
  RowDecodes 0xF000 0x3000 (fun w => .seImm (opX w) (opNN w)) ∧
  RowDecodes 0xF000 0x4000 (fun w => .sneImm (opX w) (opNN w)) ∧
  ∀ (x : RegIdx) (nn : Byte) (s : State),
    WritesPc (.seImm x nn) s (if s.reg[x] = nn then s.pc + 4 else s.pc + 2) ∧
    WritesPc (.sneImm x nn) s (if s.reg[x] ≠ nn then s.pc + 4 else s.pc + 2)

/-- `5XY0` and `9XY0` (40_control_flow.md R106, R107): X = Y always skips, never skips. -/
def Obligations.RegisterSkipsFollowTheSkipPattern : Prop :=
  RowDecodes 0xF00F 0x5000 (fun w => .seReg (opX w) (opY w)) ∧
  RowDecodes 0xF00F 0x9000 (fun w => .sneReg (opX w) (opY w)) ∧
  (∀ w : Word, w.toNat / 4096 = 5 ∨ w.toNat / 4096 = 9 → w.toNat % 16 ≠ 0 →
    decodeWord w = .error (.unrecognized w)) ∧
  ∀ (x y : RegIdx) (s : State),
    WritesPc (.seReg x y) s (if s.reg[x] = s.reg[y] then s.pc + 4 else s.pc + 2) ∧
    WritesPc (.sneReg x y) s (if s.reg[x] ≠ s.reg[y] then s.pc + 4 else s.pc + 2)

/-- `BNNN` (40_control_flow.md R108): the register added is always `reg[0]`, the sum never wraps, and a target that no fetch
can read from is held in `pc` without a fault in this cycle (the spec's decision D4). -/
def Obligations.IndexedJumpAddsRegisterZero : Prop :=
  RowDecodes 0xF000 0xB000 (fun w => .jpV0 (opNNN w)) ∧
  ∀ (nnn : BitVec 12) (s : State), ∃ p : Word, p.toNat = nnn.toNat + (s.reg[(0 : RegIdx)]).toNat ∧ p.toNat ≤ 0x10FE ∧
    WritesPc (.jpV0 nnn) s p

/-- `2NNN` (40_control_flow.md R103): with a free slot the address of this instruction is pushed; with all 16 slots
occupied STACK_OVERFLOW is taken (the spec's decision D3; the record is its decision D9). -/
def Obligations.CallPushesItsOwnAddress : Prop :=
  RowDecodes 0xF000 0x2000 (fun w => .call (opNNN w)) ∧
  ∀ (nnn : BitVec 12) (s : State),
    (s.sp.val < 16 → ∃ t : State, exec (.call nnn) s = .next t ∧
      (∀ j : Fin 16, t.stack[j] = if j.val = s.sp.val then s.pc else s.stack[j]) ∧ t.sp.val = s.sp.val + 1 ∧
      t = { s with stack := t.stack, sp := t.sp, pc := BitVec.ofNat 16 nnn.toNat } ∧ SameBytes s t) ∧
    (s.sp.val = 16 → TakesFatal (.call nnn) s .stackOverflow 16)

/-- `00EE` (40_control_flow.md R101): `sp` is lowered, `pc` becomes the popped value plus 2 and the slot keeps its value;
with an empty stack STACK_UNDERFLOW is taken (the record is the spec's decision D9). -/
def Obligations.ReturnPopsAndAddsTwo : Prop :=
  RowDecodes 0xFFFF 0x00EE (fun _ => .ret) ∧
  ∀ s : State,
    ((h : s.sp.val ≠ 0) → ∃ t : State, exec .ret s = .next t ∧ t.sp.val = s.sp.val - 1 ∧
      t = { s with sp := t.sp, pc := (s.stack[s.sp.val - 1]'(by omega)) + 2 } ∧ SameBytes s t) ∧
    (s.sp.val = 0 → TakesFatal .ret s .stackUnderflow 0)

/-- `2NNN` followed, however much later, by the `00EE` that finds the stack as the call left it resumes at the word after the
call, with `sp` as before it (95_test_vectors.md W8). -/
def Obligations.ReturnResumesAfterTheCall : Prop :=
  ∀ (nnn : BitVec 12) (s t u : State), s.sp.val < 16 → exec (.call nnn) s = .next t →
    u.stack = t.stack → u.sp = t.sp →
    ∃ v : State, exec .ret u = .next v ∧ v.pc = s.pc + 2 ∧ v.sp = s.sp ∧ v.stack = u.stack

/-! ## Register file and ALU -/

/-- `6XNN` (41_alu.md R131). -/
def Obligations.LoadImmediateWritesTheRegister : Prop :=
  RowDecodes 0xF000 0x6000 (fun w => .ldImm (opX w) (opNN w)) ∧
  ∀ (x : RegIdx) (nn : Byte) (s : State), WritesReg (.ldImm x nn) s x nn

/-- `7XNN` (41_alu.md R132): modulo 256, and `reg[0xF]` is unchanged unless X = 0xF. -/
def Obligations.AddImmediateWrapsAndSetsNoFlag : Prop :=
  RowDecodes 0xF000 0x7000 (fun w => .addImm (opX w) (opNN w)) ∧
  ∀ (x : RegIdx) (nn : Byte) (s : State),
    WritesReg (.addImm x nn) s x (BitVec.ofNat 8 ((s.reg[x]).toNat + nn.toNat))

/-- `8XY0` to `8XY3` (41_alu.md R133 to R136): bit by bit, and `reg[0xF]` is not reset. -/
def Obligations.CopyAndLogicWriteTheRegisterOnly : Prop :=
  RowDecodes 0xF00F 0x8000 (fun w => .ldReg (opX w) (opY w)) ∧
  RowDecodes 0xF00F 0x8001 (fun w => .orReg (opX w) (opY w)) ∧
  RowDecodes 0xF00F 0x8002 (fun w => .andReg (opX w) (opY w)) ∧
  RowDecodes 0xF00F 0x8003 (fun w => .xorReg (opX w) (opY w)) ∧
  ∀ (x y : RegIdx) (s : State),
    WritesReg (.ldReg x y) s x s.reg[y] ∧
    WritesReg (.orReg x y) s x (s.reg[x] ||| s.reg[y]) ∧
    WritesReg (.andReg x y) s x (s.reg[x] &&& s.reg[y]) ∧
    WritesReg (.xorReg x y) s x (s.reg[x] ^^^ s.reg[y])

/-- `8XY4` (41_alu.md R137 and, for the parameter's other value, R142; the order is the spec's decision D2): carry flag, then
the sum modulo 256. -/
def Obligations.AddRegistersCarriesOut : Prop :=
  RowDecodes 0xF00F 0x8004 (fun w => .addReg (opX w) (opY w)) ∧
  ∀ (x y : RegIdx) (s : State),
    WritesFlagged (.addReg x y) x y s (if (s.reg[x]).toNat + (s.reg[y]).toNat > 255 then 1 else 0)
      (fun a b => BitVec.ofNat 8 (a.toNat + b.toNat))

/-- `8XY5` and `8XY7` (41_alu.md R138, R140, R142; the order is the spec's decision D2): not-borrow flag, then the difference
modulo 256. -/
def Obligations.SubtractionsReportNotBorrow : Prop :=
  RowDecodes 0xF00F 0x8005 (fun w => .subReg (opX w) (opY w)) ∧
  RowDecodes 0xF00F 0x8007 (fun w => .subnReg (opX w) (opY w)) ∧
  ∀ (x y : RegIdx) (s : State),
    WritesFlagged (.subReg x y) x y s (if (s.reg[y]).toNat > (s.reg[x]).toNat then 0 else 1)
      (fun a b => BitVec.ofNat 8 (a.toNat + 256 - b.toNat)) ∧
    WritesFlagged (.subnReg x y) x y s (if (s.reg[x]).toNat > (s.reg[y]).toNat then 0 else 1)
      (fun a b => BitVec.ofNat 8 (b.toNat + 256 - a.toNat))

/-- `8XY6` and `8XYE` (41_alu.md R139, R141, R142; the order is the spec's decision D2): the bit shifted out, then the shift
by one of `reg[X]`; the Y field selects nothing. -/
def Obligations.ShiftsReportTheBitShiftedOut : Prop :=
  RowDecodes 0xF00F 0x8006 (fun w => .shr (opX w) (opY w)) ∧
  RowDecodes 0xF00F 0x800E (fun w => .shl (opX w) (opY w)) ∧
  ∀ (x y : RegIdx) (s : State),
    WritesFlagged (.shr x y) x y s (BitVec.ofNat 8 ((s.reg[x]).toNat % 2))
      (fun a _ => BitVec.ofNat 8 (a.toNat / 2)) ∧
    WritesFlagged (.shl x y) x y s (BitVec.ofNat 8 ((s.reg[x]).toNat / 128))
      (fun a _ => BitVec.ofNat 8 (a.toNat * 2))

/-- The corner cases of 41_alu.md R137 to R141 under `Sequential` where X or Y is 0xF, as the rules list them (the order is
the spec's decision D2). -/
def Obligations.SequentialFlagRegisterCorners : Prop :=
  ∀ (x y : RegIdx) (s : State), s.params.aluOrder = .sequential → x ≠ 15 → y ≠ 15 →
    let vx := (s.reg[x]).toNat
    let vy := (s.reg[y]).toNat
    let vf := (s.reg[(15 : RegIdx)]).toNat
    let ends (i : Instr) (r : RegIdx) (n : Nat) : Prop := ∃ t : State, exec i s = .next t ∧ (t.reg[r]).toNat = n
    ends (.addReg 15 y) 15 (((if vf + vy > 255 then 1 else 0) + vy) % 256) ∧
    ends (.addReg x 15) x ((vx + (if vx + vf > 255 then 1 else 0)) % 256) ∧
    ends (.addReg 15 15) 15 (if vf ≥ 0x80 then 2 else 0) ∧
    ends (.subReg 15 y) 15 (((if vy > vf then 0 else 1) + 256 - vy) % 256) ∧
    ends (.subReg x 15) x ((vx + 256 - (if vf > vx then 0 else 1)) % 256) ∧
    ends (.subReg 15 15) 15 0 ∧
    ends (.shr 15 y) 15 0 ∧
    ends (.subnReg 15 y) 15 ((vy + 256 - (if vf > vy then 0 else 1)) % 256) ∧
    ends (.subnReg x 15) x (((if vx > vf then 0 else 1) + 256 - vx) % 256) ∧
    ends (.subnReg 15 15) 15 0 ∧
    ends (.shl 15 y) 15 (2 * (vf / 128))

/-- `CXNN` (41_alu.md R145; a free draw, the spec's decision D17): NN masks one draw, which is the next injected byte when
there is one and else the free value; `NN = 0` gives 0 whatever the draw is and `NN = 0xFF` gives the draw. -/
def Obligations.RandomByteIsMasked : Prop :=
  RowDecodes 0xF000 0xC000 (fun w => .rnd (opX w) (opNN w)) ∧
  ∀ (x : RegIdx) (nn : Byte) (s : State), ∃ t : State, exec (.rnd x nn) s = .next t ∧
    t.reg[x] = nn &&& s.nextRandom ∧
    (∀ (r : Byte) (rest : List Byte), s.randomIn = r :: rest → t.reg[x] = nn &&& r ∧ t.randomIn = rest) ∧
    (nn = 0 → t.reg[x] = 0) ∧ (nn = 0xFF → t.reg[x] = s.nextRandom) ∧
    (∀ r : RegIdx, r ≠ x → t.reg[r] = s.reg[r]) ∧
    t = { s with reg := t.reg, pc := s.pc + 2, randomIn := s.randomIn.tail, randomDraws := s.randomDraws + 1 } ∧
    SameBytes s t

/-! ## Index register and memory blocks -/

/-- `ANNN` and `FX29` (42_index_memory.md R161, R163): NNN zero-extended; five times the whole register, not masked. -/
def Obligations.IndexLoadsWriteIndexOnly : Prop :=
  RowDecodes 0xF000 0xA000 (fun w => .ldI (opNNN w)) ∧
  RowDecodes 0xF0FF 0xF029 (fun w => .ldF (opX w)) ∧
  ∀ (nnn : BitVec 12) (x : RegIdx) (s : State),
    WritesIndex (.ldI nnn) s (BitVec.ofNat 16 nnn.toNat) ∧
    WritesIndex (.ldF x) s (BitVec.ofNat 16 (5 * (s.reg[x]).toNat))

/-- `FX1E` (42_index_memory.md R162; the wrap is the spec's decision D5, the missing check its decision D4): modulo 2^16, no
flag. -/
def Obligations.AddToIndexWrapsAt16Bits : Prop :=
  RowDecodes 0xF0FF 0xF01E (fun w => .addI (opX w)) ∧
  ∀ (x : RegIdx) (s : State),
    WritesIndex (.addI x) s (BitVec.ofNat 16 ((s.index.toNat + (s.reg[x]).toNat) % 65536))

/-- `FX33` (42_index_memory.md R164): hundreds, tens and ones at `index` and up; with an address above 0xFFF
MEM_OUT_OF_RANGE is taken and nothing is written (the check is the spec's decisions D6, D7, the record D9). -/
def Obligations.DecimalDigitsAreStored : Prop :=
  RowDecodes 0xF0FF 0xF033 (fun w => .ldB (opX w)) ∧
  ∀ (x : RegIdx) (s : State),
    (s.index.toNat + 2 ≤ 0xFFF → Stores (.ldB x) s s.dataBase (s.dataBase + 2) fun t =>
      (t.readByte s.index.toNat).toNat = (s.reg[x]).toNat / 100 ∧
      (t.readByte (s.index.toNat + 1)).toNat = (s.reg[x]).toNat / 10 % 10 ∧
      (t.readByte (s.index.toNat + 2)).toNat = (s.reg[x]).toNat % 10) ∧
    (s.index.toNat + 2 > 0xFFF → TakesFatal (.ldB x) s .memOutOfRange (max s.index.toNat 0x1000))

/-- `FX55` (42_index_memory.md R165): `reg[0]` to `reg[X]` at `index` and up, `index` not modified; with an address above
0xFFF MEM_OUT_OF_RANGE is taken and nothing is written (the check is the spec's decisions D6, D7, the record D9). -/
def Obligations.RegistersAreStoredFromIndexUp : Prop :=
  RowDecodes 0xF0FF 0xF055 (fun w => .stRegs (opX w)) ∧
  ∀ (x : RegIdx) (s : State),
    (s.index.toNat + x.val ≤ 0xFFF → Stores (.stRegs x) s s.dataBase (s.dataBase + x.val) fun t =>
      ∀ i : RegIdx, i ≤ x → t.readByte (s.index.toNat + i.val) = s.reg[i]) ∧
    (s.index.toNat + x.val > 0xFFF → TakesFatal (.stRegs x) s .memOutOfRange (max s.index.toNat 0x1000))

/-- `FX65` (42_index_memory.md R166): `reg[0]` to `reg[X]` from `index` and up, registers above X and `index` unchanged; with
an address above 0xFFF MEM_OUT_OF_RANGE is taken and no register is written (decisions D6, D7, D9). -/
def Obligations.RegistersAreLoadedFromIndexUp : Prop :=
  RowDecodes 0xF0FF 0xF065 (fun w => .ldRegs (opX w)) ∧
  ∀ (x : RegIdx) (s : State),
    (s.index.toNat + x.val ≤ 0xFFF → ∃ t : State, exec (.ldRegs x) s = .next t ∧
      (∀ i : RegIdx, t.reg[i] = if i ≤ x then s.readByte (s.index.toNat + i.val) else s.reg[i]) ∧
      t = { s with reg := t.reg, pc := s.pc + 2 } ∧ SameBytes s t) ∧
    (s.index.toNat + x.val > 0xFFF → TakesFatal (.ldRegs x) s .memOutOfRange (max s.index.toNat 0x1000))

/-- The identity law of the store/load pair (42_index_memory.md R166, 95_test_vectors.md W10): after an `FX55` that
completed, an `FX65` with the same `index` and X that finds memory as the store left it restores `reg[0..X]`. -/
def Obligations.LoadAfterStoreRestoresTheRegisters : Prop :=
  ∀ (x : RegIdx) (s t u : State), s.index.toNat + x.val ≤ 0xFFF → exec (.stRegs x) s = .next t →
    u.index = s.index → SameBytes t u →
    ∃ v : State, exec (.ldRegs x) u = .next v ∧ ∀ i : RegIdx, i ≤ x → v.reg[i] = s.reg[i]

/-! ## Display -/

/-- `00E0` (43_display.md R181): every pixel 0, the draw flag raised, whatever was there. -/
def Obligations.ClearScreenZeroesEveryPixel : Prop :=
  RowDecodes 0xFFFF 0x00E0 (fun _ => .cls) ∧
  ∀ s : State, ∃ t : State, exec .cls s = .next t ∧
    (∀ (px py : Nat) (hx : px < 64) (hy : py < 32), t.fb[py][px] = false) ∧
    t = { s with fb := t.fb, drawFlag := true, pc := s.pc + 2 } ∧ SameBytes s t

/-- `DXYN` inside memory (43_display.md R182 to R184): exactly the pixels inside the grid under a set sprite bit are flipped,
with no wrap; `reg[0xF]` is 1 exactly when a pixel changed from 1 to 0 and else 0; the draw flag is raised; nothing else
changes. The closed form is inferred: it is what the loop of R182 comes to, clipped as R184 says. -/
def Obligations.SpriteDrawFlipsAndDetectsCollisions : Prop :=
  RowDecodes 0xF000 0xD000 (fun w => .drw (opX w) (opY w) (opN w)) ∧
  ∀ (x y : RegIdx) (n : Nat) (s : State), n = 0 ∨ s.index.toNat + n - 1 ≤ 0xFFF →
    ∃ t : State, exec (.drw x y n) s = .next t ∧
      (∀ (px py : Nat) (hx : px < 64) (hy : py < 32),
        (spriteBitOver s x y n px py → t.fb[py][px] = !s.fb[py][px]) ∧
        (¬ spriteBitOver s x y n px py → t.fb[py][px] = s.fb[py][px])) ∧
      ((∃ (px py : Nat) (hx : px < 64) (hy : py < 32), s.fb[py][px] = true ∧ t.fb[py][px] = false) →
        t.reg[(15 : RegIdx)] = 1) ∧
      ((¬ ∃ (px py : Nat) (hx : px < 64) (hy : py < 32), s.fb[py][px] = true ∧ t.fb[py][px] = false) →
        t.reg[(15 : RegIdx)] = 0) ∧
      (∀ r : RegIdx, r ≠ 15 → t.reg[r] = s.reg[r]) ∧
      t = { s with reg := t.reg, fb := t.fb, drawFlag := true, pc := s.pc + 2 } ∧ SameBytes s t

/-- `DXYN` with a byte above 0xFFF takes MEM_OUT_OF_RANGE and writes nothing, not even `reg[0xF]` or the draw flag, clipped
rows included (43_display.md R182, R184; the check is the spec's decisions D6, D7, the record D9). -/
def Obligations.SpriteOutsideMemoryIsFatal : Prop :=
  ∀ (x y : RegIdx) (n : Nat) (s : State), n > 0 → s.index.toNat + n - 1 > 0xFFF →
    TakesFatal (.drw x y n) s .memOutOfRange (max s.index.toNat 0x1000)

/-- Drawing the same sprite twice at the same place restores the frame buffer, and when the touched pixels started at 0 the
second draw reports a collision exactly when the sprite has a visible set bit (43_display.md R182, 95_test_vectors.md W7). X
and Y are not 0xF, so that the second draw has the same place. -/
def Obligations.DrawingTwiceRestoresTheScreen : Prop :=
  ∀ (x y : RegIdx) (n : Nat) (s : State), x ≠ 15 → y ≠ 15 → n = 0 ∨ s.index.toNat + n - 1 ≤ 0xFFF →
    ∃ t u : State, exec (.drw x y n) s = .next t ∧ exec (.drw x y n) t = .next u ∧ u.fb = s.fb ∧
      ((∀ (px py : Nat) (hx : px < 64) (hy : py < 32), spriteBitOver s x y n px py → s.fb[py][px] = false) →
        (u.reg[(15 : RegIdx)] = 1 ↔ ∃ px py : Nat, px < 64 ∧ py < 32 ∧ spriteBitOver s x y n px py))

/-! ## Keys and timers -/

/-- `EX9E` and `EXA1` (44_keys_timers.md R201, R202): a skip on the level of the key a register names; a register above 0xF
takes KEY_OUT_OF_RANGE (the spec's decision D10; the record is its decision D9). -/
def Obligations.KeySkipsReadTheNamedKey : Prop :=
  RowDecodes 0xF0FF 0xE09E (fun w => .skp (opX w)) ∧
  RowDecodes 0xF0FF 0xE0A1 (fun w => .sknp (opX w)) ∧
  ∀ (x : RegIdx) (s : State),
    ((h : (s.reg[x]).toNat < 16) →
      WritesPc (.skp x) s (if (s.key[(s.reg[x]).toNat]'h) = true then s.pc + 4 else s.pc + 2) ∧
      WritesPc (.sknp x) s (if (s.key[(s.reg[x]).toNat]'h) = false then s.pc + 4 else s.pc + 2)) ∧
    ((s.reg[x]).toNat > 0xF →
      TakesFatal (.skp x) s .keyOutOfRange (s.reg[x]).toNat ∧ TakesFatal (.sknp x) s .keyOutOfRange (s.reg[x]).toNat)

/-- `FX07` (44_keys_timers.md R203). -/
def Obligations.ReadDelayWritesTheRegister : Prop :=
  RowDecodes 0xF0FF 0xF007 (fun w => .ldVxDt (opX w)) ∧
  ∀ (x : RegIdx) (s : State), WritesReg (.ldVxDt x) s x s.delay

/-- `FX0A` (44_keys_timers.md R204; the last key scanned is the parameter of the spec's decision D11, and both its values are
covered): the lowest pressed key scanned goes to `reg[X]`; with none pressed nothing is written and `pc` stays. -/
def Obligations.KeyWaitTakesTheLowestPressedKey : Prop :=
  RowDecodes 0xF0FF 0xF00A (fun w => .ldVxK (opX w)) ∧
  ∀ (x : RegIdx) (s : State),
    (∀ k : KeyIdx, k.val ≤ s.params.fx0aLastKey.toNat → s.key[k] = true → (∀ j : KeyIdx, j < k → s.key[j] = false) →
      WritesReg (.ldVxK x) s x (BitVec.ofNat 8 k.val)) ∧
    ((∀ k : KeyIdx, k.val ≤ s.params.fx0aLastKey.toNat → s.key[k] = false) → exec (.ldVxK x) s = .next s)

/-- `FX15` and `FX18` (44_keys_timers.md R205, R206): the timer takes the register's value, and the tick of the same cycle
leaves one less at its end (the spec's own inference from R83). -/
def Obligations.TimerWritesAreTickedInTheSameCycle : Prop :=
  RowDecodes 0xF0FF 0xF015 (fun w => .ldDtVx (opX w)) ∧
  RowDecodes 0xF0FF 0xF018 (fun w => .ldStVx (opX w)) ∧
  (∀ (x : RegIdx) (s : State),
    (∃ t : State, exec (.ldDtVx x) s = .next t ∧ t = { s with delay := s.reg[x], pc := s.pc + 2 } ∧ SameBytes s t) ∧
    (∃ t : State, exec (.ldStVx x) s = .next t ∧ t = { s with sound := s.reg[x], pc := s.pc + 2 } ∧ SameBytes s t)) ∧
  (∀ (x : RegIdx) (s : State),
    (Runs s (.ldDtVx x) → ∃ t : State, step s = .next t ∧ t.delay.toNat = (s.reg[x]).toNat - 1) ∧
    (Runs s (.ldStVx x) → ∃ t : State, step s = .next t ∧ t.sound.toNat = (s.reg[x]).toNat - 1 ∧
      (soundActive t = true ↔ (s.reg[x]).toNat ≥ 2)))
end

