-- ==== Sys2Proof/Laws/Decode.lean ====
section
/-! SUPPORT. The fields of an encoded word, and what a mask of the opcode table says about a word's fields. -/

namespace Sys2Proof

/-! ## Fields as arithmetic on the word's number -/

theorem fieldOp_val (w : Word) : (fieldOp w).val = w.toNat / 4096 := by
  have := w.isLt
  simp [fieldOp, Nat.shiftRight_eq_div_pow]
  omega

theorem fieldX_val (w : Word) : (fieldX w).val = w.toNat / 256 % 16 := by
  simp [fieldX, Nat.shiftRight_eq_div_pow]

theorem fieldY_val (w : Word) : (fieldY w).val = w.toNat / 16 % 16 := by
  simp [fieldY, Nat.shiftRight_eq_div_pow]

theorem fieldN_eq (w : Word) : fieldN w = w.toNat % 16 := by
  simp [fieldN]

theorem fieldNN_toNat (w : Word) : (fieldNN w).toNat = w.toNat % 256 := by
  simp [fieldNN]

theorem fieldNNN_toNat (w : Word) : (fieldNNN w).toNat = w.toNat % 4096 := by
  simp [fieldNNN]

/-! ## Formats as arithmetic -/

/-- An append as a number. -/
theorem toNat_append_eq {m n : Nat} (x : BitVec m) (y : BitVec n) :
    (x ++ y).toNat = x.toNat * 2 ^ n + y.toNat := by
  rw [BitVec.toNat_append, ← Nat.shiftLeft_add_eq_or_of_lt y.isLt, Nat.shiftLeft_eq]

@[simp] theorem toNat_regBits (x : RegIdx) : (regBits x).toNat = x.val := rfl

theorem formatFA_toNat (op : BitVec 4) (nnn : BitVec 12) :
    (formatFA op nnn).toNat = op.toNat * 4096 + nnn.toNat :=
  toNat_append_eq op nnn

theorem formatFI_toNat (op : BitVec 4) (x : RegIdx) (nn : Byte) :
    (formatFI op x nn).toNat = op.toNat * 4096 + x.val * 256 + nn.toNat := by
  have h : (formatFI op x nn).toNat = (op ++ regBits x).toNat * 2 ^ 8 + nn.toNat :=
    toNat_append_eq (op ++ regBits x) nn
  rw [h, toNat_append_eq, toNat_regBits]
  omega

theorem formatFR_toNat (op : BitVec 4) (x y : RegIdx) (n : BitVec 4) :
    (formatFR op x y n).toNat = op.toNat * 4096 + x.val * 256 + y.val * 16 + n.toNat := by
  have h : (formatFR op x y n).toNat = (op ++ regBits x ++ regBits y).toNat * 2 ^ 4 + n.toNat :=
    toNat_append_eq (op ++ regBits x ++ regBits y) n
  rw [h, toNat_append_eq, toNat_append_eq, toNat_regBits, toNat_regBits]
  omega

theorem formatFK_toNat (op : BitVec 4) (x : RegIdx) (fn : Byte) :
    (formatFK op x fn).toNat = op.toNat * 4096 + x.val * 256 + fn.toNat :=
  formatFI_toNat op x fn

/-! ## Masks of the opcode table as conditions on fields -/

theorem toNat_and_F000 (w : Word) : (w &&& 0xF000#16).toNat = w.toNat / 4096 * 4096 := by
  have hw := w.isLt
  rw [BitVec.toNat_and]
  have h1 : (0xF000#16).toNat = 15 <<< 12 := rfl
  have h2 : w.toNat = (w.toNat / 4096) <<< 12 ||| w.toNat % 4096 := by
    rw [← Nat.shiftLeft_add_eq_or_of_lt (Nat.mod_lt _ (by decide)), Nat.shiftLeft_eq]
    omega
  apply Nat.eq_of_testBit_eq
  intro i
  rw [h1, show w.toNat / 4096 * 4096 = (w.toNat / 4096) <<< 12 from (Nat.shiftLeft_eq _ 12).symm]
  rw [show w.toNat / 4096 = w.toNat >>> 12 from (Nat.shiftRight_eq_div_pow w.toNat 12).symm]
  simp only [Nat.testBit_and, Nat.testBit_shiftLeft, Nat.testBit_shiftRight]
  by_cases hi : 12 ≤ i
  · have : 12 + (i - 12) = i := by omega
    simp only [hi, decide_true, Bool.true_and, this]
    by_cases h16 : i - 12 < 4
    · have : Nat.testBit 15 (i - 12) = true := by
        have : i - 12 = 0 ∨ i - 12 = 1 ∨ i - 12 = 2 ∨ i - 12 = 3 := by omega
        rcases this with h | h | h | h <;> rw [h] <;> decide
      simp [this]
    · have hz : w.toNat.testBit i = false := by
        apply Nat.testBit_lt_two_pow
        exact Nat.lt_of_lt_of_le hw (Nat.pow_le_pow_right (by decide) (by omega))
      simp [hz]
  · simp [hi]

theorem toNat_and_F00F (w : Word) : (w &&& 0xF00F#16).toNat = w.toNat / 4096 * 4096 + w.toNat % 16 := by
  have e : w &&& 0xF00F#16 = (w &&& 0xF000#16) ||| (w &&& 0x000F#16) := by
    rw [← BitVec.and_or_distrib_left]
    rfl
  have hl : (w &&& 0x000F#16).toNat = w.toNat % 16 := by
    rw [BitVec.toNat_and]
    exact Nat.and_two_pow_sub_one_eq_mod w.toNat 4
  have hb : w.toNat % 16 < 2 ^ 12 := by omega
  rw [e, BitVec.toNat_or, toNat_and_F000, hl, show w.toNat / 4096 * 4096 = (w.toNat / 4096) <<< 12 from
    (Nat.shiftLeft_eq _ 12).symm, Nat.shiftLeft_add_eq_or_of_lt hb]

theorem toNat_and_F0FF (w : Word) : (w &&& 0xF0FF#16).toNat = w.toNat / 4096 * 4096 + w.toNat % 256 := by
  have e : w &&& 0xF0FF#16 = (w &&& 0xF000#16) ||| (w &&& 0x00FF#16) := by
    rw [← BitVec.and_or_distrib_left]
    rfl
  have hl : (w &&& 0x00FF#16).toNat = w.toNat % 256 := by
    rw [BitVec.toNat_and]
    exact Nat.and_two_pow_sub_one_eq_mod w.toNat 8
  have hb : w.toNat % 256 < 2 ^ 12 := by omega
  rw [e, BitVec.toNat_or, toNat_and_F000, hl, show w.toNat / 4096 * 4096 = (w.toNat / 4096) <<< 12 from
    (Nat.shiftLeft_eq _ 12).symm, Nat.shiftLeft_add_eq_or_of_lt hb]

theorem and_FFFF (w : Word) : w &&& 0xFFFF#16 = w := BitVec.and_allOnes

/-- A masked word as a number equation. -/
theorem and_eq_iff_toNat (w m c : Word) : w &&& m = c ↔ (w &&& m).toNat = c.toNat :=
  ⟨fun h => congrArg BitVec.toNat h, BitVec.eq_of_toNat_eq⟩

/-- Mask 0xF000 fixes bits 15-12. -/
theorem mask_F000 {w c : Word} (h : w &&& 0xF000 = c) : (fieldOp w).val = c.toNat / 4096 := by
  have e : (w &&& 0xF000#16).toNat = c.toNat := congrArg BitVec.toNat h
  rw [toNat_and_F000] at e
  rw [fieldOp_val]
  omega

/-- Mask 0xF00F fixes bits 15-12 and 3-0. -/
theorem mask_F00F {w c : Word} (h : w &&& 0xF00F = c) :
    (fieldOp w).val = c.toNat / 4096 ∧ fieldN w = c.toNat % 16 := by
  have e : (w &&& 0xF00F#16).toNat = c.toNat := congrArg BitVec.toNat h
  rw [toNat_and_F00F] at e
  rw [fieldOp_val, fieldN_eq]
  omega

/-- Mask 0xF0FF fixes bits 15-12 and 7-0. -/
theorem mask_F0FF {w c : Word} (h : w &&& 0xF0FF = c) :
    (fieldOp w).val = c.toNat / 4096 ∧ (fieldNN w).toNat = c.toNat % 256 := by
  have e : (w &&& 0xF0FF#16).toNat = c.toNat := congrArg BitVec.toNat h
  rw [toNat_and_F0FF] at e
  rw [fieldOp_val, fieldNN_toNat]
  omega

/-! ## The fields of each format -/

theorem fields_formatFA (op : BitVec 4) (nnn : BitVec 12) :
    (fieldOp (formatFA op nnn)).val = op.toNat ∧ fieldNNN (formatFA op nnn) = nnn := by
  have h := formatFA_toNat op nnn
  have := nnn.isLt
  refine ⟨?_, BitVec.eq_of_toNat_eq ?_⟩
  · rw [fieldOp_val]; omega
  · rw [fieldNNN_toNat]; omega

theorem fields_formatFI (op : BitVec 4) (x : RegIdx) (nn : Byte) :
    (fieldOp (formatFI op x nn)).val = op.toNat ∧ fieldX (formatFI op x nn) = x ∧
      fieldNN (formatFI op x nn) = nn := by
  have h := formatFI_toNat op x nn
  have := nn.isLt
  have := x.isLt
  refine ⟨?_, Fin.ext ?_, BitVec.eq_of_toNat_eq ?_⟩
  · rw [fieldOp_val]; omega
  · rw [fieldX_val]; omega
  · rw [fieldNN_toNat]; omega

theorem fields_formatFR (op : BitVec 4) (x y : RegIdx) (n : BitVec 4) :
    (fieldOp (formatFR op x y n)).val = op.toNat ∧ fieldX (formatFR op x y n) = x ∧
      fieldY (formatFR op x y n) = y ∧ fieldN (formatFR op x y n) = n.toNat := by
  have h := formatFR_toNat op x y n
  have := n.isLt
  have := x.isLt
  have := y.isLt
  refine ⟨?_, Fin.ext ?_, Fin.ext ?_, ?_⟩
  · rw [fieldOp_val]; omega
  · rw [fieldX_val]; omega
  · rw [fieldY_val]; omega
  · rw [fieldN_eq]; omega

theorem fields_formatFK (op : BitVec 4) (x : RegIdx) (fn : Byte) :
    (fieldOp (formatFK op x fn)).val = op.toNat ∧ fieldX (formatFK op x fn) = x ∧
      fieldNN (formatFK op x fn) = fn :=
  fields_formatFI op x fn

/-- The bytes of a word make the word again. -/
@[simp] theorem wordOfBytes_bytesOfWord (w : Word) : wordOfBytes (w.extractLsb' 8 8) (w.extractLsb' 0 8) = w := by
  apply BitVec.eq_of_toNat_eq
  have h : (wordOfBytes (w.extractLsb' 8 8) (w.extractLsb' 0 8)).toNat =
      (w.extractLsb' 8 8).toNat * 2 ^ 8 + (w.extractLsb' 0 8).toNat := toNat_append_eq _ _
  have := w.isLt
  rw [h]
  simp [Nat.shiftRight_eq_div_pow]
  omega

/-- Decoding from the bytes of a word is decoding the word. -/
theorem decode_bytesOfWord (w : Word) (rest : List Byte) :
    decode (bytesOfWord w ++ rest) =
      match decodeWord w with
      | .ok i => .ok (i, rest)
      | .error e => .error e := by
  cases h : decodeWord w <;> simp [bytesOfWord, decode, h]

/-! ## The first level of the decode tree, one branch each -/

theorem decodeWord_op0 {w : Word} (h : (fieldOp w).val = 0x0) : decodeWord w = decodeOp0 w := by
  simp only [decodeWord, h]
theorem decodeWord_op1 {w : Word} (h : (fieldOp w).val = 0x1) : decodeWord w = .ok (.jp (fieldNNN w)) := by
  simp only [decodeWord, h]
theorem decodeWord_op2 {w : Word} (h : (fieldOp w).val = 0x2) : decodeWord w = .ok (.call (fieldNNN w)) := by
  simp only [decodeWord, h]
theorem decodeWord_op3 {w : Word} (h : (fieldOp w).val = 0x3) : decodeWord w = .ok (.seImm (fieldX w) (fieldNN w)) := by
  simp only [decodeWord, h]
theorem decodeWord_op4 {w : Word} (h : (fieldOp w).val = 0x4) : decodeWord w = .ok (.sneImm (fieldX w) (fieldNN w)) := by
  simp only [decodeWord, h]
theorem decodeWord_op5 {w : Word} (h : (fieldOp w).val = 0x5) : decodeWord w = decodeOp5 w := by
  simp only [decodeWord, h]
theorem decodeWord_op6 {w : Word} (h : (fieldOp w).val = 0x6) : decodeWord w = .ok (.ldImm (fieldX w) (fieldNN w)) := by
  simp only [decodeWord, h]
theorem decodeWord_op7 {w : Word} (h : (fieldOp w).val = 0x7) : decodeWord w = .ok (.addImm (fieldX w) (fieldNN w)) := by
  simp only [decodeWord, h]
theorem decodeWord_op8 {w : Word} (h : (fieldOp w).val = 0x8) : decodeWord w = decodeOp8 w := by
  simp only [decodeWord, h]
theorem decodeWord_op9 {w : Word} (h : (fieldOp w).val = 0x9) : decodeWord w = decodeOp9 w := by
  simp only [decodeWord, h]
theorem decodeWord_opA {w : Word} (h : (fieldOp w).val = 0xA) : decodeWord w = .ok (.ldI (fieldNNN w)) := by
  simp only [decodeWord, h]
theorem decodeWord_opB {w : Word} (h : (fieldOp w).val = 0xB) : decodeWord w = .ok (.jpV0 (fieldNNN w)) := by
  simp only [decodeWord, h]
theorem decodeWord_opC {w : Word} (h : (fieldOp w).val = 0xC) : decodeWord w = .ok (.rnd (fieldX w) (fieldNN w)) := by
  simp only [decodeWord, h]
theorem decodeWord_opD {w : Word} (h : (fieldOp w).val = 0xD) : decodeWord w = .ok (.drw (fieldX w) (fieldY w) (fieldN w)) := by
  simp only [decodeWord, h]
theorem decodeWord_opE {w : Word} (h : (fieldOp w).val = 0xE) : decodeWord w = decodeOpE w := by
  simp only [decodeWord, h]
theorem decodeWord_opF {w : Word} (h : (fieldOp w).val = 0xF) : decodeWord w = decodeOpF w := by
  simp only [decodeWord, h]

end Sys2Proof
end

