-- ==== Sys2Proof/Laws/Display.lean ====
section
/-! SUPPORT. What drawing a pixel, a sprite row and a sprite do to the frame buffer and to the collision detector. -/

namespace Sys2Proof.Machine

/-- Inside the grid `pixelAt` is the pixel. -/
theorem pixelAt_eq (fb : FrameBuffer) {x y : Nat} (hx : x < 64) (hy : y < 32) : pixelAt fb x y = fb[y][x] :=
  dif_pos ⟨hx, hy⟩

/-- A written pixel reads back, and every other pixel reads as before. -/
theorem pixelAt_setPixel (fb : FrameBuffer) {px py : Nat} (hx : px < 64) (hy : py < 32) (v : Bool) (x y : Nat) :
    pixelAt (setPixel fb px py v) x y = if x = px ∧ y = py then v else pixelAt fb x y := by
  rw [setPixel, dif_pos ⟨hx, hy⟩]
  unfold pixelAt
  by_cases h : x < 64 ∧ y < 32
  · rw [dif_pos h, dif_pos h]
    by_cases e : py = y
    · subst e
      by_cases e' : px = x
      · subst e'; simp
      · simp [e', Ne.symm e']
    · simp [e, Ne.symm e]
  · rw [dif_neg h, dif_neg h]
    have : ¬ (x = px ∧ y = py) := by omega
    simp [this]

/-- Two frame buffers with the same pixels are equal. -/
theorem fb_ext {f g : FrameBuffer} (h : ∀ x y, x < 64 → y < 32 → pixelAt f x y = pixelAt g x y) : f = g := by
  apply Vector.ext
  intro y hy
  apply Vector.ext
  intro x hx
  simpa [pixelAt_eq, hx, hy] using h x y hx hy

/-- One sprite pixel: it flips the pixel it lands on when its bit is set and it lies inside the grid, no other pixel
changes, and it collides when it flips a lit pixel. -/
theorem drawPixel_spec (acc : FrameBuffer × Bool) (px py : Nat) (bit : Bool) :
    (∀ x y, x < 64 → y < 32 →
      pixelAt (drawPixel acc px py bit).1 x y = (pixelAt acc.1 x y ^^ (decide (x = px ∧ y = py) && bit))) ∧
    ((drawPixel acc px py bit).2 = true ↔
      acc.2 = true ∨ (px < 64 ∧ py < 32 ∧ bit = true ∧ pixelAt acc.1 px py = true)) := by
  unfold drawPixel
  by_cases h : px < 64 ∧ py < 32 ∧ bit = true
  · obtain ⟨hx, hy, hb⟩ := h
    rw [if_pos ⟨hx, hy, hb⟩]
    constructor
    · intro x y _ _
      rw [pixelAt_setPixel acc.1 hx hy]
      by_cases e : x = px ∧ y = py
      · simp [e.1, e.2, hb]
      · simp [e]
    · simp [hx, hy, hb]
  · rw [if_neg h]
    constructor
    · intro x y hx hy
      by_cases e : x = px ∧ y = py
      · obtain ⟨rfl, rfl⟩ := e
        have : bit = false := by
          cases bit
          · rfl
          · exact absurd ⟨hx, hy, rfl⟩ h
        simp [this]
      · simp [e]
    · constructor
      · exact .inl
      · rintro (h' | ⟨h1, h2, h3, -⟩)
        · exact h'
        · exact absurd ⟨h1, h2, h3⟩ h

/-- The first `k` columns of a sprite row (`drawRow` is `k = 8`). -/
def drawCols (b : Byte) (cx py k : Nat) (acc : FrameBuffer × Bool) : FrameBuffer × Bool :=
  (List.range k).foldl (fun a col => drawPixel a (cx + col) py (spriteBit b col)) acc

theorem drawCols_succ (b : Byte) (cx py k : Nat) (acc : FrameBuffer × Bool) :
    drawCols b cx py (k + 1) acc = drawPixel (drawCols b cx py k acc) (cx + k) py (spriteBit b k) := by
  simp [drawCols, List.range_succ]

/-- The first `k` columns of a sprite row flip the pixels under the row's set bits, and collide when one of them was lit. -/
theorem drawCols_spec (b : Byte) (cx py : Nat) (acc : FrameBuffer × Bool) (k : Nat) :
    (∀ x y, x < 64 → y < 32 → pixelAt (drawCols b cx py k acc).1 x y =
      (pixelAt acc.1 x y ^^ (decide (y = py ∧ cx ≤ x ∧ x < cx + k) && spriteBit b (x - cx)))) ∧
    ((drawCols b cx py k acc).2 = true ↔
      acc.2 = true ∨ ∃ x, x < 64 ∧ py < 32 ∧ cx ≤ x ∧ x < cx + k ∧ spriteBit b (x - cx) = true ∧
        pixelAt acc.1 x py = true) := by
  induction k with
  | zero =>
    constructor
    · intro x y _ _
      have : ¬ (y = py ∧ cx ≤ x ∧ x < cx + 0) := by omega
      simp only [this, decide_false, Bool.false_and, Bool.xor_false]
      rfl
    · constructor
      · exact .inl
      · rintro (h | ⟨x, -, -, h1, h2, -, -⟩)
        · exact h
        · omega
  | succ k ih =>
    obtain ⟨ih1, ih2⟩ := ih
    obtain ⟨p1, p2⟩ := drawPixel_spec (drawCols b cx py k acc) (cx + k) py (spriteBit b k)
    rw [drawCols_succ]
    constructor
    · intro x y hx hy
      rw [p1 x y hx hy, ih1 x y hx hy]
      by_cases e : x = cx + k ∧ y = py
      · obtain ⟨rfl, rfl⟩ := e
        simp
      · have e2 : decide (y = py ∧ cx ≤ x ∧ x < cx + (k + 1)) = decide (y = py ∧ cx ≤ x ∧ x < cx + k) :=
          decide_eq_decide.2 (by omega)
        simp [e, e2]
    · rw [p2, ih2]
      constructor
      · rintro ((h | ⟨x, h1, h2, h3, h4, h5, h6⟩) | ⟨h1, h2, h3, h4⟩)
        · exact .inl h
        · exact .inr ⟨x, h1, h2, h3, by omega, h5, h6⟩
        · refine .inr ⟨cx + k, h1, h2, by omega, by omega, by simpa using h3, ?_⟩
          rw [ih1 _ _ h1 h2] at h4
          simpa using h4
      · rintro (h | ⟨x, h1, h2, h3, h4, h5, h6⟩)
        · exact .inl (.inl h)
        · by_cases e : x = cx + k
          · subst e
            refine .inr ⟨h1, h2, by simpa using h5, ?_⟩
            rw [ih1 _ _ h1 h2]
            simpa using h6
          · exact .inl (.inr ⟨x, h1, h2, h3, by omega, h5, h6⟩)

/-- One sprite row. -/
theorem drawRow_spec (b : Byte) (cx py : Nat) (acc : FrameBuffer × Bool) :
    (∀ x y, x < 64 → y < 32 → pixelAt (drawRow b cx py acc).1 x y =
      (pixelAt acc.1 x y ^^ (decide (y = py ∧ cx ≤ x ∧ x < cx + 8) && spriteBit b (x - cx)))) ∧
    ((drawRow b cx py acc).2 = true ↔
      acc.2 = true ∨ ∃ x, x < 64 ∧ py < 32 ∧ cx ≤ x ∧ x < cx + 8 ∧ spriteBit b (x - cx) = true ∧
        pixelAt acc.1 x py = true) :=
  drawCols_spec b cx py acc 8

/-- The sprite pixel that lies over column `x`, row `y` when the sprite's rows are `bytes` and its corner is
(`cx`, `cy`). -/
def spriteOver (bytes : List Byte) (cx cy x y : Nat) : Bool :=
  decide (cx ≤ x ∧ x < cx + 8 ∧ cy ≤ y ∧ y < cy + bytes.length) && spriteBit (bytes.getD (y - cy) 0) (x - cx)

theorem spriteOver_cons (b : Byte) (bs : List Byte) (cx cy x y : Nat) :
    spriteOver (b :: bs) cx cy x y =
      ((decide (y = cy ∧ cx ≤ x ∧ x < cx + 8) && spriteBit b (x - cx)) ^^ spriteOver bs cx (cy + 1) x y) := by
  unfold spriteOver
  rcases Nat.lt_trichotomy y cy with h | rfl | h
  · have e1 : ¬ (y = cy ∧ cx ≤ x ∧ x < cx + 8) := by omega
    have e2 : ¬ (cx ≤ x ∧ x < cx + 8 ∧ cy ≤ y ∧ y < cy + (b :: bs).length) := by omega
    have e3 : ¬ (cx ≤ x ∧ x < cx + 8 ∧ cy + 1 ≤ y ∧ y < cy + 1 + bs.length) := by omega
    simp only [e1, e2, e3, decide_false, Bool.false_and, Bool.xor_false]
  · have e3 : ¬ (cx ≤ x ∧ x < cx + 8 ∧ y + 1 ≤ y ∧ y < y + 1 + bs.length) := by omega
    have e2 : decide (cx ≤ x ∧ x < cx + 8 ∧ y ≤ y ∧ y < y + (b :: bs).length) =
        decide (y = y ∧ cx ≤ x ∧ x < cx + 8) := decide_eq_decide.2 (by simp)
    simp only [e2, e3, decide_false, Bool.false_and, Bool.xor_false, Nat.sub_self, List.getD_cons_zero]
  · obtain ⟨k, rfl⟩ : ∃ k, y = cy + (k + 1) := ⟨y - cy - 1, by omega⟩
    have e1 : ¬ (cy + (k + 1) = cy ∧ cx ≤ x ∧ x < cx + 8) := by omega
    have e2 : decide (cx ≤ x ∧ x < cx + 8 ∧ cy ≤ cy + (k + 1) ∧ cy + (k + 1) < cy + (b :: bs).length) =
        decide (cx ≤ x ∧ x < cx + 8 ∧ cy + 1 ≤ cy + (k + 1) ∧ cy + (k + 1) < cy + 1 + bs.length) :=
      decide_eq_decide.2 (by simp only [List.length_cons]; omega)
    have e4 : cy + (k + 1) - cy = k + 1 := by omega
    have e5 : cy + (k + 1) - (cy + 1) = k := by omega
    simp only [e1, e2, e4, e5, decide_false, Bool.false_and, Bool.false_xor, List.getD_cons_succ]

/-- A whole sprite: every pixel inside the grid is flipped exactly when the sprite pixel over it is set, and there is a
collision exactly when one of the flipped pixels was lit. -/
theorem drawRows_spec (bytes : List Byte) : ∀ (cx cy : Nat) (acc : FrameBuffer × Bool),
    (∀ x y, x < 64 → y < 32 →
      pixelAt (drawRows bytes cx cy acc).1 x y = (pixelAt acc.1 x y ^^ spriteOver bytes cx cy x y)) ∧
    ((drawRows bytes cx cy acc).2 = true ↔
      acc.2 = true ∨ ∃ x y, x < 64 ∧ y < 32 ∧ spriteOver bytes cx cy x y = true ∧ pixelAt acc.1 x y = true) := by
  induction bytes with
  | nil =>
    intro cx cy acc
    have e : ∀ x y, spriteOver [] cx cy x y = false := by
      intro x y
      simp [spriteOver]
    simp [drawRows, e]
  | cons b bs ih =>
    intro cx cy acc
    obtain ⟨r1, r2⟩ := drawRow_spec b cx cy acc
    obtain ⟨i1, i2⟩ := ih cx (cy + 1) (drawRow b cx cy acc)
    rw [drawRows]
    constructor
    · intro x y hx hy
      rw [i1 x y hx hy, r1 x y hx hy, spriteOver_cons, Bool.xor_assoc]
    · have below : ∀ x y, spriteOver bs cx (cy + 1) x y = true → y ≠ cy := by
        intro x y h e
        simp only [spriteOver, Bool.and_eq_true, decide_eq_true_eq] at h
        omega
      rw [i2, r2]
      constructor
      · rintro ((h | ⟨x, h1, h2, h3, h4, h5, h6⟩) | ⟨x, y, h1, h2, h3, h4⟩)
        · exact .inl h
        · refine .inr ⟨x, cy, h1, h2, ?_, h6⟩
          have : spriteOver bs cx (cy + 1) x cy = false := by
            cases e : spriteOver bs cx (cy + 1) x cy
            · rfl
            · exact absurd rfl (below x cy e)
          simp [spriteOver_cons, this, h3, h4, h5]
        · have hne := below x y h3
          refine .inr ⟨x, y, h1, h2, ?_, ?_⟩
          · simp [spriteOver_cons, hne, h3]
          · rw [r1 x y h1 h2] at h4
            simpa [hne] using h4
      · rintro (h | ⟨x, y, h1, h2, h3, h4⟩)
        · exact .inl (.inl h)
        · by_cases e : y = cy
          · subst e
            have : spriteOver bs cx (y + 1) x y = false := by
              cases e : spriteOver bs cx (y + 1) x y
              · rfl
              · exact absurd rfl (below x y e)
            simp only [spriteOver_cons, this, Bool.xor_false, Bool.and_eq_true, decide_eq_true_eq] at h3
            exact .inl (.inr ⟨x, h1, h2, h3.1.2.1, h3.1.2.2, h3.2, h4⟩)
          · refine .inr ⟨x, y, h1, h2, ?_, ?_⟩
            · simpa [spriteOver_cons, e] using h3
            · rw [r1 x y h1 h2]
              simpa [e] using h4

end Sys2Proof.Machine
end

