-- ==== Sys2Proof/Laws/Memory.lean ====
section
/-! SUPPORT. Laws of the sparse memory: what a write changes, and that it keeps the canonical form. -/

namespace Sys2Proof.Machine

open Sys2Proof.Config

variable {font : Font} {m : Memory} {a b : Nat} {v : Byte}

/-- Every address listed in `m` is above `lo`. -/
def Memory.Above (lo : Nat) (m : Memory) : Prop := ∀ c ∈ m, lo < c.1

/-- The canonical form, entry by entry. -/
theorem Memory.wf_cons_iff {c : Host.Cell} :
    Memory.wf font (c :: m) = true ↔
      c.1 ≤ 0xFFF ∧ c.2 ≠ resetByte font c.1 ∧ Memory.Above c.1 m ∧ Memory.wf font m = true := by
  induction m generalizing c with
  | nil => simp [Memory.wf, Memory.Above]
  | cons d rest ih =>
    obtain ⟨x, v⟩ := c
    obtain ⟨y, w⟩ := d
    have key : Memory.wf font ((x, v) :: (y, w) :: rest) = true ↔
        (x < y ∧ x ≤ 0xFFF ∧ v ≠ resetByte font x) ∧ Memory.wf font ((y, w) :: rest) = true := by
      simp [Memory.wf, and_assoc]
    rw [key]
    constructor
    · rintro ⟨⟨h1, h2, h3⟩, h4⟩
      refine ⟨h2, h3, ?_, h4⟩
      intro d hd
      rcases List.mem_cons.1 hd with rfl | hd
      · exact h1
      · exact Nat.lt_trans h1 ((ih.1 h4).2.2.1 d hd)
    · rintro ⟨h1, h2, h3, h4⟩
      exact ⟨⟨h3 (y, w) (List.mem_cons_self ..), h1, h2⟩, h4⟩

theorem Memory.lookup_insert (m : Memory) (a b : Nat) (v : Byte) :
    Memory.lookup (Memory.insert m a v) b = if b = a then some v else Memory.lookup m b := by
  induction m with
  | nil => simp [Memory.insert, Memory.lookup]
  | cons c rest ih =>
    obtain ⟨x, w⟩ := c
    simp only [Memory.insert]
    split
    · simp [Memory.lookup]
    · split
      · subst x
        by_cases h : b = a <;> simp [Memory.lookup, h]
      · by_cases h : b = x
        · subst h
          have : ¬ b = a := fun h' => ‹¬ a = b› h'.symm
          simp [Memory.lookup, this]
        · simp [Memory.lookup, h, ih]

theorem Memory.lookup_erase (m : Memory) (a b : Nat) :
    Memory.lookup (Memory.erase m a) b = if b = a then none else Memory.lookup m b := by
  induction m with
  | nil => simp [Memory.erase, Memory.lookup]
  | cons c rest ih =>
    obtain ⟨x, w⟩ := c
    simp only [Memory.erase]
    split
    · next h =>
      subst h
      by_cases hb : b = a
      · simpa [hb] using ih
      · simp [Memory.lookup, hb, ih]
    · next h =>
      by_cases hb : b = x
      · subst hb
        have : ¬ b = a := fun h' => h h'.symm
        simp [Memory.lookup, this]
      · simp [Memory.lookup, hb, ih]

theorem Memory.above_insert {lo : Nat} (h : Memory.Above lo m) (ha : lo < a) :
    Memory.Above lo (Memory.insert m a v) := by
  induction m with
  | nil => simpa [Memory.insert, Memory.Above] using ha
  | cons c rest ih =>
    obtain ⟨x, w⟩ := c
    have hx : lo < x := h (x, w) (List.mem_cons_self ..)
    have hr : Memory.Above lo rest := fun d hd => h d (List.mem_cons_of_mem _ hd)
    simp only [Memory.insert]
    split
    · intro d hd
      rcases List.mem_cons.1 hd with rfl | hd
      · exact ha
      · exact h d hd
    · split
      · intro d hd
        rcases List.mem_cons.1 hd with rfl | hd
        · exact ha
        · exact hr d hd
      · intro d hd
        rcases List.mem_cons.1 hd with rfl | hd
        · exact hx
        · exact ih hr d hd

theorem Memory.wf_insert (hm : Memory.wf font m = true) (ha : a ≤ 0xFFF) (hv : v ≠ resetByte font a) :
    Memory.wf font (Memory.insert m a v) = true := by
  induction m with
  | nil => simp [Memory.insert, Memory.wf, ha, hv]
  | cons c rest ih =>
    obtain ⟨x, w⟩ := c
    obtain ⟨h1, h2, h3, h4⟩ := Memory.wf_cons_iff.1 hm
    simp only [Memory.insert]
    split
    · next hlt =>
      refine Memory.wf_cons_iff.2 ⟨ha, hv, ?_, hm⟩
      intro d hd
      rcases List.mem_cons.1 hd with rfl | hd
      · exact hlt
      · exact Nat.lt_trans hlt (h3 d hd)
    · split
      · next h => exact Memory.wf_cons_iff.2 ⟨ha, hv, h ▸ h3, h4⟩
      · next h5 h6 =>
        exact Memory.wf_cons_iff.2 ⟨h1, h2, Memory.above_insert h3 (by simp only; omega), ih h4⟩

theorem Memory.above_erase {lo : Nat} (h : Memory.Above lo m) : Memory.Above lo (Memory.erase m a) := by
  induction m with
  | nil => simpa [Memory.erase] using h
  | cons c rest ih =>
    obtain ⟨x, w⟩ := c
    have hr : Memory.Above lo rest := fun d hd => h d (List.mem_cons_of_mem _ hd)
    simp only [Memory.erase]
    split
    · exact ih hr
    · intro d hd
      rcases List.mem_cons.1 hd with rfl | hd
      · exact h (x, w) (List.mem_cons_self ..)
      · exact ih hr d hd

theorem Memory.wf_erase (hm : Memory.wf font m = true) : Memory.wf font (Memory.erase m a) = true := by
  induction m with
  | nil => rfl
  | cons c rest ih =>
    obtain ⟨x, w⟩ := c
    obtain ⟨h1, h2, h3, h4⟩ := Memory.wf_cons_iff.1 hm
    simp only [Memory.erase]
    split
    · exact ih h4
    · exact Memory.wf_cons_iff.2 ⟨h1, h2, Memory.above_erase h3, ih h4⟩

/-- Every memory write keeps the canonical form. -/
theorem Memory.wf_write (hm : Memory.wf font m = true) (ha : a ≤ 0xFFF) :
    Memory.wf font (Memory.write font m a v) = true := by
  unfold Memory.write
  split
  · exact Memory.wf_erase hm
  · next h => exact Memory.wf_insert hm ha h

/-- No address is listed with its reset content. -/
theorem Memory.ne_reset_of_lookup (hm : Memory.wf font m = true) (h : Memory.lookup m a = some v) :
    v ≠ resetByte font a := by
  induction m with
  | nil => simp [Memory.lookup] at h
  | cons c rest ih =>
    obtain ⟨x, w⟩ := c
    obtain ⟨-, h2, -, h4⟩ := Memory.wf_cons_iff.1 hm
    by_cases hx : a = x
    · subst hx
      simp only [Memory.lookup, if_pos] at h
      exact Option.some.inj h ▸ h2
    · simp only [Memory.lookup, hx, if_false] at h
      exact ih h4 h

/-- Memories in canonical form that read alike at an address list it alike. -/
theorem Memory.lookup_eq_of_read_eq {m₁ m₂ : Memory} (h₁ : Memory.wf font m₁ = true) (h₂ : Memory.wf font m₂ = true)
    (h : Memory.read font m₁ a = Memory.read font m₂ a) : Memory.lookup m₁ a = Memory.lookup m₂ a := by
  cases e₁ : Memory.lookup m₁ a with
  | none =>
    cases e₂ : Memory.lookup m₂ a with
    | none => rfl
    | some w => exact absurd (by simpa [Memory.read, e₁, e₂] using h.symm) (Memory.ne_reset_of_lookup h₂ e₂)
  | some v =>
    cases e₂ : Memory.lookup m₂ a with
    | none => exact absurd (by simpa [Memory.read, e₁, e₂] using h) (Memory.ne_reset_of_lookup h₁ e₁)
    | some w => simpa [Memory.read, e₁, e₂] using h

/-- A read after a write gives what was written at that address and what was there before at every other. -/
theorem Memory.read_write (font : Font) (m : Memory) (a b : Nat) (v : Byte) :
    Memory.read font (Memory.write font m a v) b = if b = a then v else Memory.read font m b := by
  unfold Memory.read Memory.write
  split
  · next h =>
    rw [Memory.lookup_erase]
    by_cases hb : b = a
    · simp [hb, h]
    · simp [hb]
  · rw [Memory.lookup_insert]
    by_cases hb : b = a <;> simp [hb]

end Sys2Proof.Machine
end

