-- ==== Sys2Proof/Laws/State.lean ====
section
/-! SUPPORT. One lemma per field per named update of the state, so that no proof unfolds a record update. -/

namespace Sys2Proof.Machine

/-! ### setMem -/

@[simp] theorem State.setMem_mem (m : Memory) (s : State) : (s.setMem m).mem = m := rfl
@[simp] theorem State.setMem_reg (m : Memory) (s : State) : (s.setMem m).reg = s.reg := rfl
@[simp] theorem State.setMem_index (m : Memory) (s : State) : (s.setMem m).index = s.index := rfl
@[simp] theorem State.setMem_pc (m : Memory) (s : State) : (s.setMem m).pc = s.pc := rfl
@[simp] theorem State.setMem_stack (m : Memory) (s : State) : (s.setMem m).stack = s.stack := rfl
@[simp] theorem State.setMem_sp (m : Memory) (s : State) : (s.setMem m).sp = s.sp := rfl
@[simp] theorem State.setMem_delay (m : Memory) (s : State) : (s.setMem m).delay = s.delay := rfl
@[simp] theorem State.setMem_sound (m : Memory) (s : State) : (s.setMem m).sound = s.sound := rfl
@[simp] theorem State.setMem_fb (m : Memory) (s : State) : (s.setMem m).fb = s.fb := rfl
@[simp] theorem State.setMem_drawFlag (m : Memory) (s : State) : (s.setMem m).drawFlag = s.drawFlag := rfl
@[simp] theorem State.setMem_key (m : Memory) (s : State) : (s.setMem m).key = s.key := rfl
@[simp] theorem State.setMem_opcode (m : Memory) (s : State) : (s.setMem m).opcode = s.opcode := rfl
@[simp] theorem State.setMem_fault (m : Memory) (s : State) : (s.setMem m).fault = s.fault := rfl
@[simp] theorem State.setMem_params (m : Memory) (s : State) : (s.setMem m).params = s.params := rfl
@[simp] theorem State.setMem_randomIn (m : Memory) (s : State) : (s.setMem m).randomIn = s.randomIn := rfl
@[simp] theorem State.setMem_randomDraws (m : Memory) (s : State) : (s.setMem m).randomDraws = s.randomDraws := rfl

/-! ### writeReg -/

@[simp] theorem State.writeReg_mem (x : RegIdx) (v : Byte) (s : State) : (s.writeReg x v).mem = s.mem := rfl
@[simp] theorem State.writeReg_reg (x : RegIdx) (v : Byte) (s : State) : (s.writeReg x v).reg = s.reg.set x v := rfl
@[simp] theorem State.writeReg_index (x : RegIdx) (v : Byte) (s : State) : (s.writeReg x v).index = s.index := rfl
@[simp] theorem State.writeReg_pc (x : RegIdx) (v : Byte) (s : State) : (s.writeReg x v).pc = s.pc := rfl
@[simp] theorem State.writeReg_stack (x : RegIdx) (v : Byte) (s : State) : (s.writeReg x v).stack = s.stack := rfl
@[simp] theorem State.writeReg_sp (x : RegIdx) (v : Byte) (s : State) : (s.writeReg x v).sp = s.sp := rfl
@[simp] theorem State.writeReg_delay (x : RegIdx) (v : Byte) (s : State) : (s.writeReg x v).delay = s.delay := rfl
@[simp] theorem State.writeReg_sound (x : RegIdx) (v : Byte) (s : State) : (s.writeReg x v).sound = s.sound := rfl
@[simp] theorem State.writeReg_fb (x : RegIdx) (v : Byte) (s : State) : (s.writeReg x v).fb = s.fb := rfl
@[simp] theorem State.writeReg_drawFlag (x : RegIdx) (v : Byte) (s : State) : (s.writeReg x v).drawFlag = s.drawFlag := rfl
@[simp] theorem State.writeReg_key (x : RegIdx) (v : Byte) (s : State) : (s.writeReg x v).key = s.key := rfl
@[simp] theorem State.writeReg_opcode (x : RegIdx) (v : Byte) (s : State) : (s.writeReg x v).opcode = s.opcode := rfl
@[simp] theorem State.writeReg_fault (x : RegIdx) (v : Byte) (s : State) : (s.writeReg x v).fault = s.fault := rfl
@[simp] theorem State.writeReg_params (x : RegIdx) (v : Byte) (s : State) : (s.writeReg x v).params = s.params := rfl
@[simp] theorem State.writeReg_randomIn (x : RegIdx) (v : Byte) (s : State) : (s.writeReg x v).randomIn = s.randomIn := rfl
@[simp] theorem State.writeReg_randomDraws (x : RegIdx) (v : Byte) (s : State) : (s.writeReg x v).randomDraws = s.randomDraws := rfl

/-! ### setRegs -/

@[simp] theorem State.setRegs_mem (r : Vector Byte 16) (s : State) : (s.setRegs r).mem = s.mem := rfl
@[simp] theorem State.setRegs_reg (r : Vector Byte 16) (s : State) : (s.setRegs r).reg = r := rfl
@[simp] theorem State.setRegs_index (r : Vector Byte 16) (s : State) : (s.setRegs r).index = s.index := rfl
@[simp] theorem State.setRegs_pc (r : Vector Byte 16) (s : State) : (s.setRegs r).pc = s.pc := rfl
@[simp] theorem State.setRegs_stack (r : Vector Byte 16) (s : State) : (s.setRegs r).stack = s.stack := rfl
@[simp] theorem State.setRegs_sp (r : Vector Byte 16) (s : State) : (s.setRegs r).sp = s.sp := rfl
@[simp] theorem State.setRegs_delay (r : Vector Byte 16) (s : State) : (s.setRegs r).delay = s.delay := rfl
@[simp] theorem State.setRegs_sound (r : Vector Byte 16) (s : State) : (s.setRegs r).sound = s.sound := rfl
@[simp] theorem State.setRegs_fb (r : Vector Byte 16) (s : State) : (s.setRegs r).fb = s.fb := rfl
@[simp] theorem State.setRegs_drawFlag (r : Vector Byte 16) (s : State) : (s.setRegs r).drawFlag = s.drawFlag := rfl
@[simp] theorem State.setRegs_key (r : Vector Byte 16) (s : State) : (s.setRegs r).key = s.key := rfl
@[simp] theorem State.setRegs_opcode (r : Vector Byte 16) (s : State) : (s.setRegs r).opcode = s.opcode := rfl
@[simp] theorem State.setRegs_fault (r : Vector Byte 16) (s : State) : (s.setRegs r).fault = s.fault := rfl
@[simp] theorem State.setRegs_params (r : Vector Byte 16) (s : State) : (s.setRegs r).params = s.params := rfl
@[simp] theorem State.setRegs_randomIn (r : Vector Byte 16) (s : State) : (s.setRegs r).randomIn = s.randomIn := rfl
@[simp] theorem State.setRegs_randomDraws (r : Vector Byte 16) (s : State) : (s.setRegs r).randomDraws = s.randomDraws := rfl

/-! ### setIndex -/

@[simp] theorem State.setIndex_mem (v : Word) (s : State) : (s.setIndex v).mem = s.mem := rfl
@[simp] theorem State.setIndex_reg (v : Word) (s : State) : (s.setIndex v).reg = s.reg := rfl
@[simp] theorem State.setIndex_index (v : Word) (s : State) : (s.setIndex v).index = v := rfl
@[simp] theorem State.setIndex_pc (v : Word) (s : State) : (s.setIndex v).pc = s.pc := rfl
@[simp] theorem State.setIndex_stack (v : Word) (s : State) : (s.setIndex v).stack = s.stack := rfl
@[simp] theorem State.setIndex_sp (v : Word) (s : State) : (s.setIndex v).sp = s.sp := rfl
@[simp] theorem State.setIndex_delay (v : Word) (s : State) : (s.setIndex v).delay = s.delay := rfl
@[simp] theorem State.setIndex_sound (v : Word) (s : State) : (s.setIndex v).sound = s.sound := rfl
@[simp] theorem State.setIndex_fb (v : Word) (s : State) : (s.setIndex v).fb = s.fb := rfl
@[simp] theorem State.setIndex_drawFlag (v : Word) (s : State) : (s.setIndex v).drawFlag = s.drawFlag := rfl
@[simp] theorem State.setIndex_key (v : Word) (s : State) : (s.setIndex v).key = s.key := rfl
@[simp] theorem State.setIndex_opcode (v : Word) (s : State) : (s.setIndex v).opcode = s.opcode := rfl
@[simp] theorem State.setIndex_fault (v : Word) (s : State) : (s.setIndex v).fault = s.fault := rfl
@[simp] theorem State.setIndex_params (v : Word) (s : State) : (s.setIndex v).params = s.params := rfl
@[simp] theorem State.setIndex_randomIn (v : Word) (s : State) : (s.setIndex v).randomIn = s.randomIn := rfl
@[simp] theorem State.setIndex_randomDraws (v : Word) (s : State) : (s.setIndex v).randomDraws = s.randomDraws := rfl

/-! ### setPc -/

@[simp] theorem State.setPc_mem (v : Word) (s : State) : (s.setPc v).mem = s.mem := rfl
@[simp] theorem State.setPc_reg (v : Word) (s : State) : (s.setPc v).reg = s.reg := rfl
@[simp] theorem State.setPc_index (v : Word) (s : State) : (s.setPc v).index = s.index := rfl
@[simp] theorem State.setPc_pc (v : Word) (s : State) : (s.setPc v).pc = v := rfl
@[simp] theorem State.setPc_stack (v : Word) (s : State) : (s.setPc v).stack = s.stack := rfl
@[simp] theorem State.setPc_sp (v : Word) (s : State) : (s.setPc v).sp = s.sp := rfl
@[simp] theorem State.setPc_delay (v : Word) (s : State) : (s.setPc v).delay = s.delay := rfl
@[simp] theorem State.setPc_sound (v : Word) (s : State) : (s.setPc v).sound = s.sound := rfl
@[simp] theorem State.setPc_fb (v : Word) (s : State) : (s.setPc v).fb = s.fb := rfl
@[simp] theorem State.setPc_drawFlag (v : Word) (s : State) : (s.setPc v).drawFlag = s.drawFlag := rfl
@[simp] theorem State.setPc_key (v : Word) (s : State) : (s.setPc v).key = s.key := rfl
@[simp] theorem State.setPc_opcode (v : Word) (s : State) : (s.setPc v).opcode = s.opcode := rfl
@[simp] theorem State.setPc_fault (v : Word) (s : State) : (s.setPc v).fault = s.fault := rfl
@[simp] theorem State.setPc_params (v : Word) (s : State) : (s.setPc v).params = s.params := rfl
@[simp] theorem State.setPc_randomIn (v : Word) (s : State) : (s.setPc v).randomIn = s.randomIn := rfl
@[simp] theorem State.setPc_randomDraws (v : Word) (s : State) : (s.setPc v).randomDraws = s.randomDraws := rfl

/-! ### setStack -/

@[simp] theorem State.setStack_mem (v : Vector Word 16) (s : State) : (s.setStack v).mem = s.mem := rfl
@[simp] theorem State.setStack_reg (v : Vector Word 16) (s : State) : (s.setStack v).reg = s.reg := rfl
@[simp] theorem State.setStack_index (v : Vector Word 16) (s : State) : (s.setStack v).index = s.index := rfl
@[simp] theorem State.setStack_pc (v : Vector Word 16) (s : State) : (s.setStack v).pc = s.pc := rfl
@[simp] theorem State.setStack_stack (v : Vector Word 16) (s : State) : (s.setStack v).stack = v := rfl
@[simp] theorem State.setStack_sp (v : Vector Word 16) (s : State) : (s.setStack v).sp = s.sp := rfl
@[simp] theorem State.setStack_delay (v : Vector Word 16) (s : State) : (s.setStack v).delay = s.delay := rfl
@[simp] theorem State.setStack_sound (v : Vector Word 16) (s : State) : (s.setStack v).sound = s.sound := rfl
@[simp] theorem State.setStack_fb (v : Vector Word 16) (s : State) : (s.setStack v).fb = s.fb := rfl
@[simp] theorem State.setStack_drawFlag (v : Vector Word 16) (s : State) : (s.setStack v).drawFlag = s.drawFlag := rfl
@[simp] theorem State.setStack_key (v : Vector Word 16) (s : State) : (s.setStack v).key = s.key := rfl
@[simp] theorem State.setStack_opcode (v : Vector Word 16) (s : State) : (s.setStack v).opcode = s.opcode := rfl
@[simp] theorem State.setStack_fault (v : Vector Word 16) (s : State) : (s.setStack v).fault = s.fault := rfl
@[simp] theorem State.setStack_params (v : Vector Word 16) (s : State) : (s.setStack v).params = s.params := rfl
@[simp] theorem State.setStack_randomIn (v : Vector Word 16) (s : State) : (s.setStack v).randomIn = s.randomIn := rfl
@[simp] theorem State.setStack_randomDraws (v : Vector Word 16) (s : State) : (s.setStack v).randomDraws = s.randomDraws := rfl

/-! ### setSp -/

@[simp] theorem State.setSp_mem (v : Fin 17) (s : State) : (s.setSp v).mem = s.mem := rfl
@[simp] theorem State.setSp_reg (v : Fin 17) (s : State) : (s.setSp v).reg = s.reg := rfl
@[simp] theorem State.setSp_index (v : Fin 17) (s : State) : (s.setSp v).index = s.index := rfl
@[simp] theorem State.setSp_pc (v : Fin 17) (s : State) : (s.setSp v).pc = s.pc := rfl
@[simp] theorem State.setSp_stack (v : Fin 17) (s : State) : (s.setSp v).stack = s.stack := rfl
@[simp] theorem State.setSp_sp (v : Fin 17) (s : State) : (s.setSp v).sp = v := rfl
@[simp] theorem State.setSp_delay (v : Fin 17) (s : State) : (s.setSp v).delay = s.delay := rfl
@[simp] theorem State.setSp_sound (v : Fin 17) (s : State) : (s.setSp v).sound = s.sound := rfl
@[simp] theorem State.setSp_fb (v : Fin 17) (s : State) : (s.setSp v).fb = s.fb := rfl
@[simp] theorem State.setSp_drawFlag (v : Fin 17) (s : State) : (s.setSp v).drawFlag = s.drawFlag := rfl
@[simp] theorem State.setSp_key (v : Fin 17) (s : State) : (s.setSp v).key = s.key := rfl
@[simp] theorem State.setSp_opcode (v : Fin 17) (s : State) : (s.setSp v).opcode = s.opcode := rfl
@[simp] theorem State.setSp_fault (v : Fin 17) (s : State) : (s.setSp v).fault = s.fault := rfl
@[simp] theorem State.setSp_params (v : Fin 17) (s : State) : (s.setSp v).params = s.params := rfl
@[simp] theorem State.setSp_randomIn (v : Fin 17) (s : State) : (s.setSp v).randomIn = s.randomIn := rfl
@[simp] theorem State.setSp_randomDraws (v : Fin 17) (s : State) : (s.setSp v).randomDraws = s.randomDraws := rfl

/-! ### setDelay -/

@[simp] theorem State.setDelay_mem (v : Byte) (s : State) : (s.setDelay v).mem = s.mem := rfl
@[simp] theorem State.setDelay_reg (v : Byte) (s : State) : (s.setDelay v).reg = s.reg := rfl
@[simp] theorem State.setDelay_index (v : Byte) (s : State) : (s.setDelay v).index = s.index := rfl
@[simp] theorem State.setDelay_pc (v : Byte) (s : State) : (s.setDelay v).pc = s.pc := rfl
@[simp] theorem State.setDelay_stack (v : Byte) (s : State) : (s.setDelay v).stack = s.stack := rfl
@[simp] theorem State.setDelay_sp (v : Byte) (s : State) : (s.setDelay v).sp = s.sp := rfl
@[simp] theorem State.setDelay_delay (v : Byte) (s : State) : (s.setDelay v).delay = v := rfl
@[simp] theorem State.setDelay_sound (v : Byte) (s : State) : (s.setDelay v).sound = s.sound := rfl
@[simp] theorem State.setDelay_fb (v : Byte) (s : State) : (s.setDelay v).fb = s.fb := rfl
@[simp] theorem State.setDelay_drawFlag (v : Byte) (s : State) : (s.setDelay v).drawFlag = s.drawFlag := rfl
@[simp] theorem State.setDelay_key (v : Byte) (s : State) : (s.setDelay v).key = s.key := rfl
@[simp] theorem State.setDelay_opcode (v : Byte) (s : State) : (s.setDelay v).opcode = s.opcode := rfl
@[simp] theorem State.setDelay_fault (v : Byte) (s : State) : (s.setDelay v).fault = s.fault := rfl
@[simp] theorem State.setDelay_params (v : Byte) (s : State) : (s.setDelay v).params = s.params := rfl
@[simp] theorem State.setDelay_randomIn (v : Byte) (s : State) : (s.setDelay v).randomIn = s.randomIn := rfl
@[simp] theorem State.setDelay_randomDraws (v : Byte) (s : State) : (s.setDelay v).randomDraws = s.randomDraws := rfl

/-! ### setSound -/

@[simp] theorem State.setSound_mem (v : Byte) (s : State) : (s.setSound v).mem = s.mem := rfl
@[simp] theorem State.setSound_reg (v : Byte) (s : State) : (s.setSound v).reg = s.reg := rfl
@[simp] theorem State.setSound_index (v : Byte) (s : State) : (s.setSound v).index = s.index := rfl
@[simp] theorem State.setSound_pc (v : Byte) (s : State) : (s.setSound v).pc = s.pc := rfl
@[simp] theorem State.setSound_stack (v : Byte) (s : State) : (s.setSound v).stack = s.stack := rfl
@[simp] theorem State.setSound_sp (v : Byte) (s : State) : (s.setSound v).sp = s.sp := rfl
@[simp] theorem State.setSound_delay (v : Byte) (s : State) : (s.setSound v).delay = s.delay := rfl
@[simp] theorem State.setSound_sound (v : Byte) (s : State) : (s.setSound v).sound = v := rfl
@[simp] theorem State.setSound_fb (v : Byte) (s : State) : (s.setSound v).fb = s.fb := rfl
@[simp] theorem State.setSound_drawFlag (v : Byte) (s : State) : (s.setSound v).drawFlag = s.drawFlag := rfl
@[simp] theorem State.setSound_key (v : Byte) (s : State) : (s.setSound v).key = s.key := rfl
@[simp] theorem State.setSound_opcode (v : Byte) (s : State) : (s.setSound v).opcode = s.opcode := rfl
@[simp] theorem State.setSound_fault (v : Byte) (s : State) : (s.setSound v).fault = s.fault := rfl
@[simp] theorem State.setSound_params (v : Byte) (s : State) : (s.setSound v).params = s.params := rfl
@[simp] theorem State.setSound_randomIn (v : Byte) (s : State) : (s.setSound v).randomIn = s.randomIn := rfl
@[simp] theorem State.setSound_randomDraws (v : Byte) (s : State) : (s.setSound v).randomDraws = s.randomDraws := rfl

/-! ### setFb -/

@[simp] theorem State.setFb_mem (v : FrameBuffer) (s : State) : (s.setFb v).mem = s.mem := rfl
@[simp] theorem State.setFb_reg (v : FrameBuffer) (s : State) : (s.setFb v).reg = s.reg := rfl
@[simp] theorem State.setFb_index (v : FrameBuffer) (s : State) : (s.setFb v).index = s.index := rfl
@[simp] theorem State.setFb_pc (v : FrameBuffer) (s : State) : (s.setFb v).pc = s.pc := rfl
@[simp] theorem State.setFb_stack (v : FrameBuffer) (s : State) : (s.setFb v).stack = s.stack := rfl
@[simp] theorem State.setFb_sp (v : FrameBuffer) (s : State) : (s.setFb v).sp = s.sp := rfl
@[simp] theorem State.setFb_delay (v : FrameBuffer) (s : State) : (s.setFb v).delay = s.delay := rfl
@[simp] theorem State.setFb_sound (v : FrameBuffer) (s : State) : (s.setFb v).sound = s.sound := rfl
@[simp] theorem State.setFb_fb (v : FrameBuffer) (s : State) : (s.setFb v).fb = v := rfl
@[simp] theorem State.setFb_drawFlag (v : FrameBuffer) (s : State) : (s.setFb v).drawFlag = s.drawFlag := rfl
@[simp] theorem State.setFb_key (v : FrameBuffer) (s : State) : (s.setFb v).key = s.key := rfl
@[simp] theorem State.setFb_opcode (v : FrameBuffer) (s : State) : (s.setFb v).opcode = s.opcode := rfl
@[simp] theorem State.setFb_fault (v : FrameBuffer) (s : State) : (s.setFb v).fault = s.fault := rfl
@[simp] theorem State.setFb_params (v : FrameBuffer) (s : State) : (s.setFb v).params = s.params := rfl
@[simp] theorem State.setFb_randomIn (v : FrameBuffer) (s : State) : (s.setFb v).randomIn = s.randomIn := rfl
@[simp] theorem State.setFb_randomDraws (v : FrameBuffer) (s : State) : (s.setFb v).randomDraws = s.randomDraws := rfl

/-! ### setDrawFlag -/

@[simp] theorem State.setDrawFlag_mem (v : Bool) (s : State) : (s.setDrawFlag v).mem = s.mem := rfl
@[simp] theorem State.setDrawFlag_reg (v : Bool) (s : State) : (s.setDrawFlag v).reg = s.reg := rfl
@[simp] theorem State.setDrawFlag_index (v : Bool) (s : State) : (s.setDrawFlag v).index = s.index := rfl
@[simp] theorem State.setDrawFlag_pc (v : Bool) (s : State) : (s.setDrawFlag v).pc = s.pc := rfl
@[simp] theorem State.setDrawFlag_stack (v : Bool) (s : State) : (s.setDrawFlag v).stack = s.stack := rfl
@[simp] theorem State.setDrawFlag_sp (v : Bool) (s : State) : (s.setDrawFlag v).sp = s.sp := rfl
@[simp] theorem State.setDrawFlag_delay (v : Bool) (s : State) : (s.setDrawFlag v).delay = s.delay := rfl
@[simp] theorem State.setDrawFlag_sound (v : Bool) (s : State) : (s.setDrawFlag v).sound = s.sound := rfl
@[simp] theorem State.setDrawFlag_fb (v : Bool) (s : State) : (s.setDrawFlag v).fb = s.fb := rfl
@[simp] theorem State.setDrawFlag_drawFlag (v : Bool) (s : State) : (s.setDrawFlag v).drawFlag = v := rfl
@[simp] theorem State.setDrawFlag_key (v : Bool) (s : State) : (s.setDrawFlag v).key = s.key := rfl
@[simp] theorem State.setDrawFlag_opcode (v : Bool) (s : State) : (s.setDrawFlag v).opcode = s.opcode := rfl
@[simp] theorem State.setDrawFlag_fault (v : Bool) (s : State) : (s.setDrawFlag v).fault = s.fault := rfl
@[simp] theorem State.setDrawFlag_params (v : Bool) (s : State) : (s.setDrawFlag v).params = s.params := rfl
@[simp] theorem State.setDrawFlag_randomIn (v : Bool) (s : State) : (s.setDrawFlag v).randomIn = s.randomIn := rfl
@[simp] theorem State.setDrawFlag_randomDraws (v : Bool) (s : State) : (s.setDrawFlag v).randomDraws = s.randomDraws := rfl

/-! ### setKey -/

@[simp] theorem State.setKey_mem (v : Vector Bool 16) (s : State) : (s.setKey v).mem = s.mem := rfl
@[simp] theorem State.setKey_reg (v : Vector Bool 16) (s : State) : (s.setKey v).reg = s.reg := rfl
@[simp] theorem State.setKey_index (v : Vector Bool 16) (s : State) : (s.setKey v).index = s.index := rfl
@[simp] theorem State.setKey_pc (v : Vector Bool 16) (s : State) : (s.setKey v).pc = s.pc := rfl
@[simp] theorem State.setKey_stack (v : Vector Bool 16) (s : State) : (s.setKey v).stack = s.stack := rfl
@[simp] theorem State.setKey_sp (v : Vector Bool 16) (s : State) : (s.setKey v).sp = s.sp := rfl
@[simp] theorem State.setKey_delay (v : Vector Bool 16) (s : State) : (s.setKey v).delay = s.delay := rfl
@[simp] theorem State.setKey_sound (v : Vector Bool 16) (s : State) : (s.setKey v).sound = s.sound := rfl
@[simp] theorem State.setKey_fb (v : Vector Bool 16) (s : State) : (s.setKey v).fb = s.fb := rfl
@[simp] theorem State.setKey_drawFlag (v : Vector Bool 16) (s : State) : (s.setKey v).drawFlag = s.drawFlag := rfl
@[simp] theorem State.setKey_key (v : Vector Bool 16) (s : State) : (s.setKey v).key = v := rfl
@[simp] theorem State.setKey_opcode (v : Vector Bool 16) (s : State) : (s.setKey v).opcode = s.opcode := rfl
@[simp] theorem State.setKey_fault (v : Vector Bool 16) (s : State) : (s.setKey v).fault = s.fault := rfl
@[simp] theorem State.setKey_params (v : Vector Bool 16) (s : State) : (s.setKey v).params = s.params := rfl
@[simp] theorem State.setKey_randomIn (v : Vector Bool 16) (s : State) : (s.setKey v).randomIn = s.randomIn := rfl
@[simp] theorem State.setKey_randomDraws (v : Vector Bool 16) (s : State) : (s.setKey v).randomDraws = s.randomDraws := rfl

/-! ### setOpcode -/

@[simp] theorem State.setOpcode_mem (v : Word) (s : State) : (s.setOpcode v).mem = s.mem := rfl
@[simp] theorem State.setOpcode_reg (v : Word) (s : State) : (s.setOpcode v).reg = s.reg := rfl
@[simp] theorem State.setOpcode_index (v : Word) (s : State) : (s.setOpcode v).index = s.index := rfl
@[simp] theorem State.setOpcode_pc (v : Word) (s : State) : (s.setOpcode v).pc = s.pc := rfl
@[simp] theorem State.setOpcode_stack (v : Word) (s : State) : (s.setOpcode v).stack = s.stack := rfl
@[simp] theorem State.setOpcode_sp (v : Word) (s : State) : (s.setOpcode v).sp = s.sp := rfl
@[simp] theorem State.setOpcode_delay (v : Word) (s : State) : (s.setOpcode v).delay = s.delay := rfl
@[simp] theorem State.setOpcode_sound (v : Word) (s : State) : (s.setOpcode v).sound = s.sound := rfl
@[simp] theorem State.setOpcode_fb (v : Word) (s : State) : (s.setOpcode v).fb = s.fb := rfl
@[simp] theorem State.setOpcode_drawFlag (v : Word) (s : State) : (s.setOpcode v).drawFlag = s.drawFlag := rfl
@[simp] theorem State.setOpcode_key (v : Word) (s : State) : (s.setOpcode v).key = s.key := rfl
@[simp] theorem State.setOpcode_opcode (v : Word) (s : State) : (s.setOpcode v).opcode = v := rfl
@[simp] theorem State.setOpcode_fault (v : Word) (s : State) : (s.setOpcode v).fault = s.fault := rfl
@[simp] theorem State.setOpcode_params (v : Word) (s : State) : (s.setOpcode v).params = s.params := rfl
@[simp] theorem State.setOpcode_randomIn (v : Word) (s : State) : (s.setOpcode v).randomIn = s.randomIn := rfl
@[simp] theorem State.setOpcode_randomDraws (v : Word) (s : State) : (s.setOpcode v).randomDraws = s.randomDraws := rfl

/-! ### setFault -/

@[simp] theorem State.setFault_mem (f : Option FaultRecord) (s : State) : (s.setFault f).mem = s.mem := rfl
@[simp] theorem State.setFault_reg (f : Option FaultRecord) (s : State) : (s.setFault f).reg = s.reg := rfl
@[simp] theorem State.setFault_index (f : Option FaultRecord) (s : State) : (s.setFault f).index = s.index := rfl
@[simp] theorem State.setFault_pc (f : Option FaultRecord) (s : State) : (s.setFault f).pc = s.pc := rfl
@[simp] theorem State.setFault_stack (f : Option FaultRecord) (s : State) : (s.setFault f).stack = s.stack := rfl
@[simp] theorem State.setFault_sp (f : Option FaultRecord) (s : State) : (s.setFault f).sp = s.sp := rfl
@[simp] theorem State.setFault_delay (f : Option FaultRecord) (s : State) : (s.setFault f).delay = s.delay := rfl
@[simp] theorem State.setFault_sound (f : Option FaultRecord) (s : State) : (s.setFault f).sound = s.sound := rfl
@[simp] theorem State.setFault_fb (f : Option FaultRecord) (s : State) : (s.setFault f).fb = s.fb := rfl
@[simp] theorem State.setFault_drawFlag (f : Option FaultRecord) (s : State) : (s.setFault f).drawFlag = s.drawFlag := rfl
@[simp] theorem State.setFault_key (f : Option FaultRecord) (s : State) : (s.setFault f).key = s.key := rfl
@[simp] theorem State.setFault_opcode (f : Option FaultRecord) (s : State) : (s.setFault f).opcode = s.opcode := rfl
@[simp] theorem State.setFault_fault (f : Option FaultRecord) (s : State) : (s.setFault f).fault = f := rfl
@[simp] theorem State.setFault_params (f : Option FaultRecord) (s : State) : (s.setFault f).params = s.params := rfl
@[simp] theorem State.setFault_randomIn (f : Option FaultRecord) (s : State) : (s.setFault f).randomIn = s.randomIn := rfl
@[simp] theorem State.setFault_randomDraws (f : Option FaultRecord) (s : State) : (s.setFault f).randomDraws = s.randomDraws := rfl

/-! ### setRandom -/

@[simp] theorem State.setRandom_mem (b : List Byte) (n : Nat) (s : State) : (s.setRandom b n).mem = s.mem := rfl
@[simp] theorem State.setRandom_reg (b : List Byte) (n : Nat) (s : State) : (s.setRandom b n).reg = s.reg := rfl
@[simp] theorem State.setRandom_index (b : List Byte) (n : Nat) (s : State) : (s.setRandom b n).index = s.index := rfl
@[simp] theorem State.setRandom_pc (b : List Byte) (n : Nat) (s : State) : (s.setRandom b n).pc = s.pc := rfl
@[simp] theorem State.setRandom_stack (b : List Byte) (n : Nat) (s : State) : (s.setRandom b n).stack = s.stack := rfl
@[simp] theorem State.setRandom_sp (b : List Byte) (n : Nat) (s : State) : (s.setRandom b n).sp = s.sp := rfl
@[simp] theorem State.setRandom_delay (b : List Byte) (n : Nat) (s : State) : (s.setRandom b n).delay = s.delay := rfl
@[simp] theorem State.setRandom_sound (b : List Byte) (n : Nat) (s : State) : (s.setRandom b n).sound = s.sound := rfl
@[simp] theorem State.setRandom_fb (b : List Byte) (n : Nat) (s : State) : (s.setRandom b n).fb = s.fb := rfl
@[simp] theorem State.setRandom_drawFlag (b : List Byte) (n : Nat) (s : State) : (s.setRandom b n).drawFlag = s.drawFlag := rfl
@[simp] theorem State.setRandom_key (b : List Byte) (n : Nat) (s : State) : (s.setRandom b n).key = s.key := rfl
@[simp] theorem State.setRandom_opcode (b : List Byte) (n : Nat) (s : State) : (s.setRandom b n).opcode = s.opcode := rfl
@[simp] theorem State.setRandom_fault (b : List Byte) (n : Nat) (s : State) : (s.setRandom b n).fault = s.fault := rfl
@[simp] theorem State.setRandom_params (b : List Byte) (n : Nat) (s : State) : (s.setRandom b n).params = s.params := rfl
@[simp] theorem State.setRandom_randomIn (b : List Byte) (n : Nat) (s : State) : (s.setRandom b n).randomIn = b := rfl
@[simp] theorem State.setRandom_randomDraws (b : List Byte) (n : Nat) (s : State) : (s.setRandom b n).randomDraws = n := rfl

/-! ### The operations that write `pc` or `fault` only -/

@[simp] theorem State.advance_eq (s : State) : s.advance = s.setPc (s.pc + 2) := rfl
@[simp] theorem State.skipIf_eq (c : Bool) (s : State) :
    s.skipIf c = s.setPc (if c then s.pc + 4 else s.pc + 2) := rfl
@[simp] theorem State.raiseFatal_eq (f : Fatal) (s : State) :
    s.raiseFatal f = s.setFault (some ⟨f.code, s.pc, s.opcode, f.info⟩) := rfl
@[simp] theorem State.consumeRandom_eq (s : State) :
    s.consumeRandom = s.setRandom s.randomIn.tail (s.randomDraws + 1) := rfl

/-! ### Reading registers and memory bytes after an update that does not touch them -/

@[simp] theorem State.readReg_eq (s : State) (x : RegIdx) : s.readReg x = s.reg[x] := rfl
theorem State.readByte_congr (s t : State) (hm : t.mem = s.mem) (hp : t.params = s.params) (a : Nat) :
    t.readByte a = s.readByte a := by simp [State.readByte, hm, hp]

end Sys2Proof.Machine
end

