-- ==== Sys2Proof/Laws/Ops.lean ====
section
/-! SUPPORT. What each shared operation can do, said once: provers cite these and do not unfold the operations. -/

namespace Sys2Proof.Machine

/-! ## Bytes of memory in the state -/

/-- A written byte reads back, and every other byte reads as before. -/
theorem State.readByte_writeByte (s : State) (a b : Nat) (v : Byte) :
    (s.writeByte a v).readByte b = if b = a then v else s.readByte b := by
  simp [State.readByte, State.writeByte, Memory.read_write]

/-- A byte write touches memory only. -/
theorem State.writeByte_eq (s : State) (a : Nat) (v : Byte) :
    s.writeByte a v = { s with mem := (s.writeByte a v).mem } := rfl

/-- Writing consecutive bytes touches memory only. -/
theorem State.writeBytes_eq (bs : List Byte) : ∀ (a : Nat) (s : State),
    State.writeBytes a bs s = { s with mem := (State.writeBytes a bs s).mem } := by
  induction bs with
  | nil => intro a s; rfl
  | cons b bs ih =>
    intro a s
    rw [State.writeBytes, ih]
    rfl

/-- The bytes written at consecutive addresses read back, and every other byte reads as before. -/
theorem State.readByte_writeBytes (bs : List Byte) : ∀ (a : Nat) (s : State) (c : Nat),
    (State.writeBytes a bs s).readByte c = if a ≤ c then bs[c - a]?.getD (s.readByte c) else s.readByte c := by
  induction bs with
  | nil => intro a s c; simp [State.writeBytes]
  | cons b bs ih =>
    intro a s c
    rw [State.writeBytes, ih]
    rcases Nat.lt_trichotomy c a with h | rfl | h
    · rw [if_neg (by omega), if_neg (by omega), State.readByte_writeByte, if_neg (by omega)]
    · simp [State.readByte_writeByte]
    · obtain ⟨k, rfl⟩ : ∃ k, c = a + (k + 1) := ⟨c - a - 1, by omega⟩
      have e : a + (k + 1) - (a + 1) = k := by omega
      simp [State.readByte_writeByte, e, show a + 1 ≤ a + (k + 1) by omega]

/-- Writing consecutive bytes that all lie in 0x000-0xFFF keeps the canonical form of memory. -/
theorem State.wf_writeBytes (bs : List Byte) : ∀ (a : Nat) (s : State), a + bs.length ≤ 0x1000 →
    Memory.wf s.params.font s.mem = true →
    Memory.wf s.params.font (State.writeBytes a bs s).mem = true := by
  induction bs with
  | nil => intro a s _ h; exact h
  | cons b bs ih =>
    intro a s hl h
    simp only [List.length_cons] at hl
    exact ih (a + 1) (s.writeByte a b) (by omega) (Memory.wf_write h (by omega))

/-! ## Checked accesses -/

/-- The range check passes exactly when no byte of the access lies above 0xFFF. -/
theorem checkRange_ok_iff (base count : Nat) :
    checkRange base count = .ok () ↔ count = 0 ∨ base + count ≤ 0x1000 := by
  unfold checkRange
  split
  · simp only [reduceCtorEq, false_iff]; omega
  · simp only [true_iff]; omega

/-- A range check that passes. -/
theorem checkRange_ok {base count : Nat} (h : count = 0 ∨ base + count ≤ 0x1000) : checkRange base count = .ok () :=
  (checkRange_ok_iff base count).2 h

/-- A range check that fails names the lowest address outside memory. -/
theorem checkRange_error {base count : Nat} (h : ¬ (count = 0 ∨ base + count ≤ 0x1000)) :
    checkRange base count = .error ⟨.memOutOfRange, max base 0x1000⟩ := by
  unfold checkRange
  rw [if_pos (by omega)]

/-- A checked block read inside memory gives the bytes there. -/
theorem loadBytes_ok (s : State) (n : Nat) : ∀ a : Nat, n = 0 ∨ a + n ≤ 0x1000 →
    loadBytes s a n = .ok ((List.range n).map fun k => s.readByte (a + k)) := by
  induction n with
  | zero => intro a _; rfl
  | succ n ih =>
    intro a h
    have hm : memRead s a = .ok (s.readByte a) := if_neg (by omega)
    rw [loadBytes, hm, ih (a + 1) (by omega), List.range_succ_eq_map]
    simp only [bind, Except.bind, pure, Except.pure, List.map_cons, List.map_map, Nat.add_zero]
    congr 3
    funext k
    simp only [Function.comp, Nat.succ_eq_add_one]
    congr 1
    omega

/-- A checked block write inside memory is the plain block write. -/
theorem storeBytes_ok (bs : List Byte) : ∀ (a : Nat) (s : State), bs = [] ∨ a + bs.length ≤ 0x1000 →
    storeBytes a bs s = .ok (State.writeBytes a bs s) := by
  induction bs with
  | nil => intro a s _; rfl
  | cons b bs ih =>
    intro a s h
    have h' : a + (bs.length + 1) ≤ 0x1000 := by simpa using h
    have hm : memWrite s a b = .ok (s.writeByte a b) := if_neg (by omega)
    rw [storeBytes, hm]
    exact ih (a + 1) (s.writeByte a b) (.inr (by omega))

/-! ## Stack -/

/-- A push with a free slot. -/
theorem pushSlot_ok (v : Word) (s : State) (h : s.sp.val < 16) :
    pushSlot v s = .ok { s with stack := s.stack.set s.sp.val v, sp := ⟨s.sp.val + 1, by omega⟩ } := by
  unfold pushSlot
  rw [dif_pos h]
  rfl

/-- A push with all 16 slots occupied. -/
theorem pushSlot_error (v : Word) (s : State) (h : s.sp.val = 16) :
    pushSlot v s = .error ⟨.stackOverflow, 16⟩ := by
  unfold pushSlot
  rw [dif_neg (by omega), h]

/-- A pop from a stack that is not empty. -/
theorem popSlot_ok (s : State) (h : s.sp.val ≠ 0) :
    popSlot s = .ok (s.stack[s.sp.val - 1]'(by omega), { s with sp := ⟨s.sp.val - 1, by omega⟩ }) := by
  unfold popSlot
  rw [dif_neg h]
  rfl

/-- A pop from an empty stack. -/
theorem popSlot_error (s : State) (h : s.sp.val = 0) : popSlot s = .error ⟨.stackUnderflow, 0⟩ := by
  unfold popSlot
  rw [dif_pos h, h]

/-! ## Key operands and register ranges -/

/-- A register that names a key. -/
theorem keyOperand_ok (s : State) (x : RegIdx) (h : (s.reg[x]).toNat < 16) :
    keyOperand s x = .ok ⟨(s.reg[x]).toNat, h⟩ := dif_pos h

/-- A register that names no key. -/
theorem keyOperand_error (s : State) (x : RegIdx) (h : ¬ (s.reg[x]).toNat < 16) :
    keyOperand s x = .error ⟨.keyOutOfRange, (s.reg[x]).toNat⟩ := dif_neg h

/-- The register range 0 to x has x + 1 values, value i from register i. -/
theorem State.regRange_getElem? (s : State) (x : RegIdx) (i : Nat) :
    (s.regRange x)[i]? = if h : i < x.val + 1 then some (s.reg[i]'(by omega)) else none := by
  unfold State.regRange
  by_cases h : i < x.val + 1 <;> simp [h]

@[simp] theorem State.length_regRange (s : State) (x : RegIdx) : (s.regRange x).length = x.val + 1 := by
  simp [State.regRange]

/-- What a register holds after a register range was written. -/
theorem getElem_writeRegRange (bs : List Byte) : ∀ (i : Nat) (r : Vector Byte 16) (j : Nat) (hj : j < 16),
    (writeRegRange i bs r)[j] = if i ≤ j then bs[j - i]?.getD r[j] else r[j] := by
  induction bs with
  | nil => intro i r j hj; simp [writeRegRange]
  | cons b bs ih =>
    intro i r j hj
    rw [writeRegRange, ih]
    rcases Nat.lt_trichotomy j i with h | rfl | h
    · rw [if_neg (by omega), if_neg (by omega), Vector.getElem_setIfInBounds hj, if_neg (by omega)]
    · simp [Vector.getElem_setIfInBounds hj]
    · obtain ⟨k, rfl⟩ : ∃ k, j = i + (k + 1) := ⟨j - i - 1, by omega⟩
      have e : i + (k + 1) - (i + 1) = k := by omega
      simp [Vector.getElem_setIfInBounds hj, e, show i + 1 ≤ i + (k + 1) by omega]

/-! ## The end of an instruction -/

@[simp] theorem commit_ok (s t : State) : commit s (.ok t) = .next t := rfl
@[simp] theorem commit_error (s : State) (f : Fatal) : commit s (.error f) = .next (s.raiseFatal f) := rfl

/-- An instruction always answers a next state: its effect, or the fatal condition taken in the state it started in. -/
theorem commit_cases (s : State) (r : Except Fatal State) :
    (∃ t, r = .ok t ∧ commit s r = .next t) ∨ (∃ f, r = .error f ∧ commit s r = .next (s.raiseFatal f)) := by
  cases r with
  | ok t => exact .inl ⟨t, rfl, rfl⟩
  | error f => exact .inr ⟨f, rfl, rfl⟩

end Sys2Proof.Machine
end

