-- ==== Sys2Proof/Laws/Exec.lean ====
section
/-! SUPPORT. What each meaning that checks something answers: its effect when the check passes, else the fatal condition
taken. The meanings that check nothing are one record update by definition. -/

namespace Sys2Proof.Machine

/-! ## Stack -/

theorem exec_call_ok (nnn : BitVec 12) (s : State) (h : s.sp.val < 16) :
    exec (.call nnn) s = .next { s with
      stack := s.stack.set s.sp.val s.pc, sp := ⟨s.sp.val + 1, by omega⟩, pc := addrOperand nnn } := by
  simp only [exec, execCall, pushSlot_ok _ _ h]
  rfl

theorem exec_call_error (nnn : BitVec 12) (s : State) (h : s.sp.val = 16) :
    exec (.call nnn) s = .next (s.raiseFatal ⟨.stackOverflow, 16⟩) := by
  simp only [exec, execCall, pushSlot_error _ _ h]
  rfl

theorem exec_ret_ok (s : State) (h : s.sp.val ≠ 0) :
    exec .ret s = .next { s with
      sp := ⟨s.sp.val - 1, by omega⟩, pc := (s.stack[s.sp.val - 1]'(by omega)) + 2 } := by
  simp only [exec, execRet, popSlot_ok _ h]
  rfl

theorem exec_ret_error (s : State) (h : s.sp.val = 0) :
    exec .ret s = .next (s.raiseFatal ⟨.stackUnderflow, 0⟩) := by
  simp only [exec, execRet, popSlot_error _ h]
  rfl

/-! ## Memory blocks -/

theorem exec_ldB_ok (x : RegIdx) (s : State) (h : s.index.toNat + 3 ≤ 0x1000) :
    exec (.ldB x) s = .next (State.writeBytes s.dataBase (decimalDigits s.reg[x]) s).advance := by
  have h1 : checkRange s.dataBase 3 = .ok () := checkRange_ok (.inr h)
  have h2 : storeBytes s.dataBase (decimalDigits s.reg[x]) s = _ := storeBytes_ok _ _ _ (.inr h)
  simp only [exec, execLdB, h1, State.readReg_eq, h2]
  rfl

theorem exec_ldB_error (x : RegIdx) (s : State) (h : ¬ s.index.toNat + 3 ≤ 0x1000) :
    exec (.ldB x) s = .next (s.raiseFatal ⟨.memOutOfRange, max s.index.toNat 0x1000⟩) := by
  have h1 : checkRange s.dataBase 3 = .error ⟨.memOutOfRange, max s.index.toNat 0x1000⟩ :=
    checkRange_error (by simp only [State.dataBase]; omega)
  simp only [exec, execLdB, h1]
  rfl

theorem exec_stRegs_ok (x : RegIdx) (s : State) (h : s.index.toNat + (x.val + 1) ≤ 0x1000) :
    exec (.stRegs x) s = .next (State.writeBytes s.dataBase (s.regRange x) s).advance := by
  have h1 : checkRange s.dataBase (x.val + 1) = .ok () := checkRange_ok (.inr h)
  have h2 : storeBytes s.dataBase (s.regRange x) s = _ :=
    storeBytes_ok _ _ _ (.inr (by rw [State.length_regRange]; exact h))
  simp only [exec, execStRegs, h1, h2]
  rfl

theorem exec_stRegs_error (x : RegIdx) (s : State) (h : ¬ s.index.toNat + (x.val + 1) ≤ 0x1000) :
    exec (.stRegs x) s = .next (s.raiseFatal ⟨.memOutOfRange, max s.index.toNat 0x1000⟩) := by
  have h1 : checkRange s.dataBase (x.val + 1) = .error ⟨.memOutOfRange, max s.index.toNat 0x1000⟩ :=
    checkRange_error (by simp only [State.dataBase]; omega)
  simp only [exec, execStRegs, h1]
  rfl

theorem exec_ldRegs_ok (x : RegIdx) (s : State) (h : s.index.toNat + (x.val + 1) ≤ 0x1000) :
    exec (.ldRegs x) s = .next (s.setRegs (writeRegRange 0
      ((List.range (x.val + 1)).map fun k => s.readByte (s.dataBase + k)) s.reg)).advance := by
  have h1 : checkRange s.dataBase (x.val + 1) = .ok () := checkRange_ok (.inr h)
  have h2 : loadBytes s s.dataBase (x.val + 1) = _ := loadBytes_ok _ _ _ (.inr h)
  simp only [exec, execLdRegs, h1, h2]
  rfl

theorem exec_ldRegs_error (x : RegIdx) (s : State) (h : ¬ s.index.toNat + (x.val + 1) ≤ 0x1000) :
    exec (.ldRegs x) s = .next (s.raiseFatal ⟨.memOutOfRange, max s.index.toNat 0x1000⟩) := by
  have h1 : checkRange s.dataBase (x.val + 1) = .error ⟨.memOutOfRange, max s.index.toNat 0x1000⟩ :=
    checkRange_error (by simp only [State.dataBase]; omega)
  simp only [exec, execLdRegs, h1]
  rfl

/-! ## Sprite draw -/

/-- Frame buffer and collision of a sprite drawn from memory in state `s`. -/
def State.drawn (s : State) (x y : RegIdx) (n : Nat) : FrameBuffer × Bool :=
  drawRows ((List.range n).map fun k => s.readByte (s.dataBase + k)) (s.reg[x]).toNat (s.reg[y]).toNat (s.fb, false)

theorem exec_drw_ok (x y : RegIdx) (n : Nat) (s : State) (h : n = 0 ∨ s.index.toNat + n ≤ 0x1000) :
    exec (.drw x y n) s = .next
      (((s.writeReg flagReg (collisionFlag (s.drawn x y n).2)).setFb (s.drawn x y n).1).setDrawFlag true).advance := by
  have h1 : checkRange s.dataBase n = .ok () := checkRange_ok h
  have h2 : loadBytes s s.dataBase n = _ := loadBytes_ok _ _ _ h
  simp only [exec, execDrw, h1, h2]
  rfl

theorem exec_drw_error (x y : RegIdx) (n : Nat) (s : State) (h : ¬ (n = 0 ∨ s.index.toNat + n ≤ 0x1000)) :
    exec (.drw x y n) s = .next (s.raiseFatal ⟨.memOutOfRange, max s.index.toNat 0x1000⟩) := by
  have h1 : checkRange s.dataBase n = .error ⟨.memOutOfRange, max s.index.toNat 0x1000⟩ := checkRange_error h
  simp only [exec, execDrw, h1]
  rfl

/-! ## Keys -/

theorem exec_skp_ok (x : RegIdx) (s : State) (h : (s.reg[x]).toNat < 16) :
    exec (.skp x) s = .next (s.skipIf (s.key[(s.reg[x]).toNat]'h)) := by
  simp only [exec, execSkp, keyOperand_ok s x h]
  rfl

theorem exec_skp_error (x : RegIdx) (s : State) (h : ¬ (s.reg[x]).toNat < 16) :
    exec (.skp x) s = .next (s.raiseFatal ⟨.keyOutOfRange, (s.reg[x]).toNat⟩) := by
  simp only [exec, execSkp, keyOperand_error s x h]
  rfl

theorem exec_sknp_ok (x : RegIdx) (s : State) (h : (s.reg[x]).toNat < 16) :
    exec (.sknp x) s = .next (s.skipIf (!(s.key[(s.reg[x]).toNat]'h))) := by
  simp only [exec, execSknp, keyOperand_ok s x h]
  rfl

theorem exec_sknp_error (x : RegIdx) (s : State) (h : ¬ (s.reg[x]).toNat < 16) :
    exec (.sknp x) s = .next (s.raiseFatal ⟨.keyOutOfRange, (s.reg[x]).toNat⟩) := by
  simp only [exec, execSknp, keyOperand_error s x h]
  rfl

/-- What the scan of `FX0A` looks for. -/
theorem firstPressed_def (key : Vector Bool 16) (last : Nat) :
    firstPressed key last = (List.finRange 16).find? fun k => decide (k.val ≤ last) && key[k] := rfl

/-- The scan of `FX0A` finds no key exactly when no scanned key is pressed. -/
theorem firstPressed_eq_none (key : Vector Bool 16) (last : Nat) :
    firstPressed key last = none ↔ ∀ j : KeyIdx, j.val ≤ last → key[j] = false := by
  simp [firstPressed_def]

/-- The scan of `FX0A` finds the lowest pressed key among those it scans. -/
theorem firstPressed_eq_some (key : Vector Bool 16) (last : Nat) (k : KeyIdx) :
    firstPressed key last = some k ↔
      k.val ≤ last ∧ key[k] = true ∧ ∀ j : KeyIdx, j < k → j.val ≤ last → key[j] = false := by
  have fwd : ∀ k, firstPressed key last = some k →
      k.val ≤ last ∧ key[k] = true ∧ ∀ j : KeyIdx, j < k → j.val ≤ last → key[j] = false := by
    intro k h
    rw [firstPressed_def, List.find?_eq_some_iff_append] at h
    obtain ⟨hk, as, bs, e, hno⟩ := h
    simp only [Bool.and_eq_true, decide_eq_true_eq] at hk
    refine ⟨hk.1, hk.2, fun j hj hl => ?_⟩
    have hmem : j ∈ as ++ k :: bs := e ▸ List.mem_finRange j
    have hs : (as ++ k :: bs).Pairwise (· < ·) := e ▸ List.pairwise_lt_finRange 16
    have hja : j ∈ as := by
      rcases List.mem_append.1 hmem with h | h
      · exact h
      · rcases List.mem_cons.1 h with rfl | h
        · exact absurd hj (lt_irrefl _)
        · have := (List.pairwise_cons.1 (List.pairwise_append.1 hs).2.1).1 j h
          exact absurd hj (lt_asymm this)
    have := hno j hja
    simpa [hl] using this
  refine ⟨fwd k, fun ⟨h1, h2, h3⟩ => ?_⟩
  cases e : firstPressed key last with
  | none =>
    rw [firstPressed_eq_none] at e
    exact absurd h2 (by simp [e k h1])
  | some k' =>
    obtain ⟨h1', h2', h3'⟩ := fwd k' e
    rcases lt_trichotomy k k' with h | h | h
    · exact absurd h2 (by simp [h3' k h h1])
    · rw [h]
    · exact absurd h2' (by simp [h3 k' h h1'])

end Sys2Proof.Machine
end

