-- ==== Sys2Proof/Laws/Cycle.lean ====
section
/-! SUPPORT. What one cycle can do, said once. -/

namespace Sys2Proof.Machine

/-- A fetch inside memory. -/
theorem fetch_ok (s : State) (h : s.pc.toNat < 0xFFF) :
    fetch s = .ok (wordOfBytes (s.readByte s.pc.toNat) (s.readByte (s.pc.toNat + 1))) := if_neg (by omega)

/-- A fetch that would leave memory. -/
theorem fetch_error (s : State) (h : ¬ s.pc.toNat < 0xFFF) : fetch s = .error ⟨.fetchOutOfRange, s.pc.toNat⟩ :=
  if_pos (by omega)

theorem step_halted (s : State) (r : FaultRecord) (h : s.fault = some r) : step s = .next s := by
  simp [step, stepCycle, h]

theorem step_fetch_error (s : State) (f : Fatal) (hr : s.fault = none) (h : fetch s = .error f) :
    step s = .next (s.raiseFatal f) := by
  simp [step, stepCycle, hr, h, takeFatal]

theorem step_unrecognized (s : State) (w : Word) (e : DecodeError) (hr : s.fault = none) (h : fetch s = .ok w)
    (hd : decodeWord w = .error e) :
    step s = .next ((s.setOpcode w).raiseFatal ⟨.unrecognizedOpcode, w.toNat⟩) := by
  simp [step, stepCycle, runWord, hr, h, hd, takeFatal]

theorem step_decoded (s : State) (w : Word) (i : Instr) (hr : s.fault = none) (h : fetch s = .ok w)
    (hd : decodeWord w = .ok i) : step s = endCycle (exec i (s.setOpcode w)) := by
  simp [step, stepCycle, runWord, hr, h, hd]

/-- The five ways a cycle can go: halted, fetch fault, unrecognized word, an instruction that raised a fatal condition (no
tick), an instruction that completed (tick). -/
theorem step_cases {s t : State} (h : step s = .next t) :
    (s.fault ≠ none ∧ t = s) ∨
    (s.fault = none ∧ ∃ f, fetch s = .error f ∧ t = s.raiseFatal f) ∨
    (s.fault = none ∧ ∃ w e, fetch s = .ok w ∧ decodeWord w = .error e ∧
      t = (s.setOpcode w).raiseFatal ⟨.unrecognizedOpcode, w.toNat⟩) ∨
    (s.fault = none ∧ ∃ w i u, fetch s = .ok w ∧ decodeWord w = .ok i ∧ exec i (s.setOpcode w) = .next u ∧
      ((u.fault ≠ none ∧ t = u) ∨ (u.fault = none ∧ t = timerTick u))) := by
  cases hr : s.fault with
  | some r =>
    rw [step_halted s r hr] at h
    cases h
    exact .inl ⟨by simp, rfl⟩
  | none =>
    refine .inr ?_
    cases hf : fetch s with
    | error f =>
      rw [step_fetch_error s f hr hf] at h
      cases h
      exact .inl ⟨rfl, f, rfl, rfl⟩
    | ok w =>
      refine .inr ?_
      cases hd : decodeWord w with
      | error e =>
        rw [step_unrecognized s w e hr hf hd] at h
        cases h
        exact .inl ⟨rfl, w, e, rfl, hd, rfl⟩
      | ok i =>
        rw [step_decoded s w i hr hf hd] at h
        refine .inr ⟨rfl, w, i, ?_⟩
        cases he : exec i (s.setOpcode w) with
        | fault r => simp [he, endCycle] at h
        | refused r => simp [he, endCycle] at h
        | next u =>
          refine ⟨u, rfl, hd, rfl, ?_⟩
          cases hu : u.fault with
          | none =>
            simp only [he, endCycle, hu] at h
            cases h
            exact .inr ⟨rfl, rfl⟩
          | some r =>
            simp only [he, endCycle, hu] at h
            cases h
            exact .inl ⟨by simp, rfl⟩

/-- The tick of one timer, as numbers: down by one, clamped at zero. -/
theorem tickTimer_toNat (t : Byte) : (tickTimer t).toNat = t.toNat - 1 := by
  unfold tickTimer
  split
  · have h1 : (1 : Byte).toNat = 1 := rfl
    have := t.isLt
    rw [BitVec.toNat_sub, h1]
    omega
  · omega

end Sys2Proof.Machine
end

