-- ==== Sys2Proof/Laws/HostOps.lean ====
section
/-! SUPPORT. What the host's program load can answer, and what the host then sees. -/

namespace Sys2Proof.Machine

/-- A program that fits is placed. -/
theorem loadProgram_ok (bytes : List Byte) (s : State) (h : bytes.length ≤ 3584) :
    loadProgram bytes s = .next (State.writeBytes 0x200 bytes s) := by
  simp [loadProgram, programFits, h]

/-- A program that does not fit is turned away. -/
theorem loadProgram_error (bytes : List Byte) (s : State) (h : bytes.length > 3584) :
    loadProgram bytes s = .refused (.programTooLarge bytes.length) := by
  simp [loadProgram, programFits]
  omega

@[simp] theorem errorOut_next (t : State) : errorOut (.next t) = none := rfl

@[simp] theorem errorOut_programTooLarge (n : Nat) : errorOut (.refused (.programTooLarge n)) = some (7, n) := rfl

end Sys2Proof.Machine
end

