-- ==== Sys2Proof/Laws/PerInstr.lean ====
section
/-! SUPPORT. Facts about every instruction as syntax, one lemma per constructor. -/

namespace Sys2Proof.Laws.EncodesItsRow

open Sys2Proof

/-- The word of the instruction satisfies the mask and value of the instruction's own row of the opcode table
(30_encoding.md R75). -/
def Statement (i : Instr) : Prop :=
  ∃ r ∈ opcodeTable, r.pattern = i.pattern ∧ r.matchesWord (encode i) = true

theorem row_FA (op : BitVec 4) (nnn : BitVec 12) {c : Word} (h : c.toNat = op.toNat * 4096) :
    formatFA op nnn &&& 0xF000#16 = c := by
  have := nnn.isLt
  rw [and_eq_iff_toNat, toNat_and_F000, formatFA_toNat, h]
  omega

theorem row_FI (op : BitVec 4) (x : RegIdx) (nn : Byte) {c : Word} (h : c.toNat = op.toNat * 4096) :
    formatFI op x nn &&& 0xF000#16 = c := by
  have := nn.isLt
  have := x.isLt
  rw [and_eq_iff_toNat, toNat_and_F000, formatFI_toNat, h]
  omega

theorem row_FR (op : BitVec 4) (x y : RegIdx) (n : BitVec 4) {c : Word} (h : c.toNat = op.toNat * 4096 + n.toNat) :
    formatFR op x y n &&& 0xF00F#16 = c := by
  have := n.isLt
  have := x.isLt
  have := y.isLt
  rw [and_eq_iff_toNat, toNat_and_F00F, formatFR_toNat, h]
  omega

theorem row_FD (op : BitVec 4) (x y : RegIdx) (n : BitVec 4) {c : Word} (h : c.toNat = op.toNat * 4096) :
    formatFR op x y n &&& 0xF000#16 = c := by
  have := n.isLt
  have := x.isLt
  have := y.isLt
  rw [and_eq_iff_toNat, toNat_and_F000, formatFR_toNat, h]
  omega

theorem row_FK (op : BitVec 4) (x : RegIdx) (fn : Byte) {c : Word} (h : c.toNat = op.toNat * 4096 + fn.toNat) :
    formatFK op x fn &&& 0xF0FF#16 = c := by
  have := fn.isLt
  have := x.isLt
  rw [and_eq_iff_toNat, toNat_and_F0FF, formatFK_toNat, h]
  omega

theorem cls : Statement .cls :=
  ⟨⟨"00E0", 0xFFFF, 0x00E0⟩, by decide, rfl, rfl⟩
theorem ret : Statement .ret :=
  ⟨⟨"00EE", 0xFFFF, 0x00EE⟩, by decide, rfl, rfl⟩
theorem jp (nnn : BitVec 12) : Statement (.jp nnn) :=
  ⟨⟨"1NNN", 0xF000, 0x1000⟩, by decide, rfl, decide_eq_true (row_FA _ nnn rfl)⟩
theorem call (nnn : BitVec 12) : Statement (.call nnn) :=
  ⟨⟨"2NNN", 0xF000, 0x2000⟩, by decide, rfl, decide_eq_true (row_FA _ nnn rfl)⟩
theorem seImm (x : RegIdx) (nn : Byte) : Statement (.seImm x nn) :=
  ⟨⟨"3XNN", 0xF000, 0x3000⟩, by decide, rfl, decide_eq_true (row_FI _ x nn rfl)⟩
theorem sneImm (x : RegIdx) (nn : Byte) : Statement (.sneImm x nn) :=
  ⟨⟨"4XNN", 0xF000, 0x4000⟩, by decide, rfl, decide_eq_true (row_FI _ x nn rfl)⟩
theorem seReg (x y : RegIdx) : Statement (.seReg x y) :=
  ⟨⟨"5XY0", 0xF00F, 0x5000⟩, by decide, rfl, decide_eq_true (row_FR _ x y _ rfl)⟩
theorem ldImm (x : RegIdx) (nn : Byte) : Statement (.ldImm x nn) :=
  ⟨⟨"6XNN", 0xF000, 0x6000⟩, by decide, rfl, decide_eq_true (row_FI _ x nn rfl)⟩
theorem addImm (x : RegIdx) (nn : Byte) : Statement (.addImm x nn) :=
  ⟨⟨"7XNN", 0xF000, 0x7000⟩, by decide, rfl, decide_eq_true (row_FI _ x nn rfl)⟩
theorem ldReg (x y : RegIdx) : Statement (.ldReg x y) :=
  ⟨⟨"8XY0", 0xF00F, 0x8000⟩, by decide, rfl, decide_eq_true (row_FR _ x y _ rfl)⟩
theorem orReg (x y : RegIdx) : Statement (.orReg x y) :=
  ⟨⟨"8XY1", 0xF00F, 0x8001⟩, by decide, rfl, decide_eq_true (row_FR _ x y _ rfl)⟩
theorem andReg (x y : RegIdx) : Statement (.andReg x y) :=
  ⟨⟨"8XY2", 0xF00F, 0x8002⟩, by decide, rfl, decide_eq_true (row_FR _ x y _ rfl)⟩
theorem xorReg (x y : RegIdx) : Statement (.xorReg x y) :=
  ⟨⟨"8XY3", 0xF00F, 0x8003⟩, by decide, rfl, decide_eq_true (row_FR _ x y _ rfl)⟩
theorem addReg (x y : RegIdx) : Statement (.addReg x y) :=
  ⟨⟨"8XY4", 0xF00F, 0x8004⟩, by decide, rfl, decide_eq_true (row_FR _ x y _ rfl)⟩
theorem subReg (x y : RegIdx) : Statement (.subReg x y) :=
  ⟨⟨"8XY5", 0xF00F, 0x8005⟩, by decide, rfl, decide_eq_true (row_FR _ x y _ rfl)⟩
theorem shr (x y : RegIdx) : Statement (.shr x y) :=
  ⟨⟨"8XY6", 0xF00F, 0x8006⟩, by decide, rfl, decide_eq_true (row_FR _ x y _ rfl)⟩
theorem subnReg (x y : RegIdx) : Statement (.subnReg x y) :=
  ⟨⟨"8XY7", 0xF00F, 0x8007⟩, by decide, rfl, decide_eq_true (row_FR _ x y _ rfl)⟩
theorem shl (x y : RegIdx) : Statement (.shl x y) :=
  ⟨⟨"8XYE", 0xF00F, 0x800E⟩, by decide, rfl, decide_eq_true (row_FR _ x y _ rfl)⟩
theorem sneReg (x y : RegIdx) : Statement (.sneReg x y) :=
  ⟨⟨"9XY0", 0xF00F, 0x9000⟩, by decide, rfl, decide_eq_true (row_FR _ x y _ rfl)⟩
theorem ldI (nnn : BitVec 12) : Statement (.ldI nnn) :=
  ⟨⟨"ANNN", 0xF000, 0xA000⟩, by decide, rfl, decide_eq_true (row_FA _ nnn rfl)⟩
theorem jpV0 (nnn : BitVec 12) : Statement (.jpV0 nnn) :=
  ⟨⟨"BNNN", 0xF000, 0xB000⟩, by decide, rfl, decide_eq_true (row_FA _ nnn rfl)⟩
theorem rnd (x : RegIdx) (nn : Byte) : Statement (.rnd x nn) :=
  ⟨⟨"CXNN", 0xF000, 0xC000⟩, by decide, rfl, decide_eq_true (row_FI _ x nn rfl)⟩
theorem drw (x y : RegIdx) (n : Nat) : Statement (.drw x y n) :=
  ⟨⟨"DXYN", 0xF000, 0xD000⟩, by decide, rfl, decide_eq_true (row_FD _ x y _ rfl)⟩
theorem skp (x : RegIdx) : Statement (.skp x) :=
  ⟨⟨"EX9E", 0xF0FF, 0xE09E⟩, by decide, rfl, decide_eq_true (row_FK _ x _ rfl)⟩
theorem sknp (x : RegIdx) : Statement (.sknp x) :=
  ⟨⟨"EXA1", 0xF0FF, 0xE0A1⟩, by decide, rfl, decide_eq_true (row_FK _ x _ rfl)⟩
theorem ldVxDt (x : RegIdx) : Statement (.ldVxDt x) :=
  ⟨⟨"FX07", 0xF0FF, 0xF007⟩, by decide, rfl, decide_eq_true (row_FK _ x _ rfl)⟩
theorem ldVxK (x : RegIdx) : Statement (.ldVxK x) :=
  ⟨⟨"FX0A", 0xF0FF, 0xF00A⟩, by decide, rfl, decide_eq_true (row_FK _ x _ rfl)⟩
theorem ldDtVx (x : RegIdx) : Statement (.ldDtVx x) :=
  ⟨⟨"FX15", 0xF0FF, 0xF015⟩, by decide, rfl, decide_eq_true (row_FK _ x _ rfl)⟩
theorem ldStVx (x : RegIdx) : Statement (.ldStVx x) :=
  ⟨⟨"FX18", 0xF0FF, 0xF018⟩, by decide, rfl, decide_eq_true (row_FK _ x _ rfl)⟩
theorem addI (x : RegIdx) : Statement (.addI x) :=
  ⟨⟨"FX1E", 0xF0FF, 0xF01E⟩, by decide, rfl, decide_eq_true (row_FK _ x _ rfl)⟩
theorem ldF (x : RegIdx) : Statement (.ldF x) :=
  ⟨⟨"FX29", 0xF0FF, 0xF029⟩, by decide, rfl, decide_eq_true (row_FK _ x _ rfl)⟩
theorem ldB (x : RegIdx) : Statement (.ldB x) :=
  ⟨⟨"FX33", 0xF0FF, 0xF033⟩, by decide, rfl, decide_eq_true (row_FK _ x _ rfl)⟩
theorem stRegs (x : RegIdx) : Statement (.stRegs x) :=
  ⟨⟨"FX55", 0xF0FF, 0xF055⟩, by decide, rfl, decide_eq_true (row_FK _ x _ rfl)⟩
theorem ldRegs (x : RegIdx) : Statement (.ldRegs x) :=
  ⟨⟨"FX65", 0xF0FF, 0xF065⟩, by decide, rfl, decide_eq_true (row_FK _ x _ rfl)⟩

end Sys2Proof.Laws.EncodesItsRow
end

