-- ==== Sys2Proof/Machine/Listing.lean ====
section
/-! DEFINITION. The assembler syntax of an instruction and of a word that is none (30_encoding.md R78). The core reads none of
it: it is how this spec's listings spell an instruction. -/

namespace Sys2Proof.Machine

/-- One hexadecimal digit. -/
def hexDigit (n : Nat) : Char := "0123456789ABCDEF".toList.getD n '?'

/-- The last `k` hexadecimal digits of a number, the most significant first. -/
def hexDigits : Nat → Nat → List Char
  | 0, _ => []
  | k + 1, n => hexDigits k (n / 16) ++ [hexDigit (n % 16)]

/-- A number as `k` hexadecimal digits. -/
def hexText (k n : Nat) : String := String.ofList (hexDigits k n)

/-- A register's name in listings, `V0` to `VF`. -/
def regName (x : RegIdx) : String := "V" ++ hexText 1 x.val

/-- A mnemonic with one operand. -/
def text1 (name a : String) : String := name ++ " " ++ a

/-- A mnemonic with two operands. -/
def text2 (name a b : String) : String := name ++ " " ++ a ++ ", " ++ b

/-- An instruction in the syntax of 30_encoding.md R78 (PRESUMED: the spec itself supplies it from general knowledge; log entry
24). The optional second register of the shifts is written out. -/
def listing (i : Instr) : String :=
  match i with
  | .cls => "CLS"
  | .ret => "RET"
  | .jp nnn => text1 "JP" (hexText 3 nnn.toNat)
  | .call nnn => text1 "CALL" (hexText 3 nnn.toNat)
  | .seImm x nn => text2 "SE" (regName x) (hexText 2 nn.toNat)
  | .sneImm x nn => text2 "SNE" (regName x) (hexText 2 nn.toNat)
  | .seReg x y => text2 "SE" (regName x) (regName y)
  | .ldImm x nn => text2 "LD" (regName x) (hexText 2 nn.toNat)
  | .addImm x nn => text2 "ADD" (regName x) (hexText 2 nn.toNat)
  | .ldReg x y => text2 "LD" (regName x) (regName y)
  | .orReg x y => text2 "OR" (regName x) (regName y)
  | .andReg x y => text2 "AND" (regName x) (regName y)
  | .xorReg x y => text2 "XOR" (regName x) (regName y)
  | .addReg x y => text2 "ADD" (regName x) (regName y)
  | .subReg x y => text2 "SUB" (regName x) (regName y)
  | .shr x y => text2 "SHR" (regName x) (regName y)
  | .subnReg x y => text2 "SUBN" (regName x) (regName y)
  | .shl x y => text2 "SHL" (regName x) (regName y)
  | .sneReg x y => text2 "SNE" (regName x) (regName y)
  | .ldI nnn => text2 "LD" "I" (hexText 3 nnn.toNat)
  | .jpV0 nnn => text2 "JP" "V0" (hexText 3 nnn.toNat)
  | .rnd x nn => text2 "RND" (regName x) (hexText 2 nn.toNat)
  | .drw x y n => text2 "DRW" (regName x) (regName y) ++ ", " ++ hexText 1 n
  | .skp x => text1 "SKP" (regName x)
  | .sknp x => text1 "SKNP" (regName x)
  | .ldVxDt x => text2 "LD" (regName x) "DT"
  | .ldVxK x => text2 "LD" (regName x) "K"
  | .ldDtVx x => text2 "LD" "DT" (regName x)
  | .ldStVx x => text2 "LD" "ST" (regName x)
  | .addI x => text2 "ADD" "I" (regName x)
  | .ldF x => text2 "LD" "F" (regName x)
  | .ldB x => text2 "LD" "B" (regName x)
  | .stRegs x => text2 "LD" "[I]" (regName x)
  | .ldRegs x => text2 "LD" (regName x) "[I]"

/-- A word in a listing: its instruction, or `DW` with the word. -/
def wordListing (w : Word) : String :=
  match decodeWord w with
  | .ok i => listing i
  | .error _ => "DW 0x" ++ hexText 4 w.toNat

end Sys2Proof.Machine
end

