-- ==== Sys2Proof/Tests/Slice0.lean ====
section
/-! SUPPORT. Tests. Words are written out bit by bit from the formats of 30_encoding.md R72; expected results are the vectors
W1 to W12 and V1 to V81 of 95_test_vectors.md and the boundary values of the rules. The last part has, for every obligation
with hypotheses, a concrete state and operands that meet them. -/

namespace Sys2Proof.Tests

open Sys2Proof Sys2Proof.Machine Sys2Proof.Config Sys2Proof.Claims

/-! ## Helpers -/

/-- The reset state with the word `w` where the next cycle fetches. -/
def at200 (w : Nat) : State := State.reset.withFetchWord 16 w

/-- The state with `pc` at `p` and the word `w` there. -/
def atPc (p : Word) (w : Nat) : State := (State.reset.setPc p).withFetchWord 16 w

/-- The state after an outcome, if it is a next state. -/
def nextOf : StepOutcome → Option State
  | .next t => some t
  | .fault _ => none
  | .refused _ => none

/-- The state after one cycle. -/
def after (s : State) : Option State := nextOf (step s)

/-- The state after two cycles. -/
def after2 (s : State) : Option State := (after s).bind after

/-- The fault record after one cycle, its code as a number. -/
def faultAfter (s : State) : Option (Option (Nat × Word × Word × Nat)) := (after s).map faultOut

/-- The value of register `x` after one cycle. -/
def regAfter (x : RegIdx) (s : State) : Option Byte := (after s).map (·.reg[x])

/-- Registers `x` and 0xF after one cycle. -/
def regAndFlag (x : RegIdx) (s : State) : Option (Byte × Byte) := (after s).map fun t => (t.reg[x], t.reg[(15 : RegIdx)])

/-- The program counter after one cycle. -/
def pcAfter (s : State) : Option Word := (after s).map (·.pc)

/-- The index register after one cycle. -/
def indexAfter (s : State) : Option Word := (after s).map (·.index)

/-- The core with the `Latched` reading of the flag-writing ALU instructions. -/
def latched (s : State) : State := { s with params := { defaultParams with aluOrder := .latched } }

/-- The core that scans key 0xF as well. -/
def scanF (s : State) : State := { s with params := { defaultParams with fx0aLastKey := .keyF } }

/-- A pressed key. -/
def press (k : KeyIdx) (s : State) : State := s.setKey (s.key.set k true)

/-- A lit pixel. -/
def light (x y : Nat) (s : State) : State := s.setFb (setPixel s.fb x y true)

/-- A pixel after one cycle. -/
def pixelAfter (x y : Nat) (s : State) : Option Bool := (after s).map fun t => pixelAt t.fb x y

/-! ## WellFormed: each check refuses an ill-formed term -/

theorem test_wf_drw_15 : Instr.wf (.drw 0 0 15) = true := by decide
theorem test_wf_refuses_drw_16 : Instr.wf (.drw 0 0 16) = false := by decide
theorem test_programFits_3584 : programFits (List.replicate 3584 0) = true := by
  rw [programFits, List.length_replicate]; rfl
theorem test_programFits_refuses_3585 : programFits (List.replicate 3585 0) = false := by
  rw [programFits, List.length_replicate]; rfl

/-! ## Decode: one word of every instruction, written out from its format and row -/

theorem test_decode_fixed_words :
    decodeWord 0b0000_0000_1110_0000 = .ok .cls ∧ decodeWord 0b0000_0000_1110_1110 = .ok .ret := by decide

theorem test_decode_address_words :
    decodeWord 0b0001_0010_0011_0100 = .ok (.jp 0x234) ∧ decodeWord 0b0010_0010_0001_0000 = .ok (.call 0x210) ∧
    decodeWord 0b1010_0010_0000_1010 = .ok (.ldI 0x20A) ∧ decodeWord 0b1011_0011_0000_0000 = .ok (.jpV0 0x300) := by decide

theorem test_decode_immediate_words :
    decodeWord 0b0011_0011_0100_0010 = .ok (.seImm 3 0x42) ∧ decodeWord 0b0100_0011_0100_0010 = .ok (.sneImm 3 0x42) ∧
    decodeWord 0b0110_1010_0010_1111 = .ok (.ldImm 0xA 0x2F) ∧ decodeWord 0b0111_0001_0000_0010 = .ok (.addImm 1 2) ∧
    decodeWord 0b1100_0011_0000_1111 = .ok (.rnd 3 0x0F) := by decide

theorem test_decode_register_words :
    decodeWord 0b0101_0001_0010_0000 = .ok (.seReg 1 2) ∧ decodeWord 0b1000_0001_0010_0000 = .ok (.ldReg 1 2) ∧
    decodeWord 0b1000_0001_0010_0001 = .ok (.orReg 1 2) ∧ decodeWord 0b1000_0001_0010_0010 = .ok (.andReg 1 2) ∧
    decodeWord 0b1000_0001_0010_0011 = .ok (.xorReg 1 2) ∧ decodeWord 0b1000_0001_0010_0100 = .ok (.addReg 1 2) ∧
    decodeWord 0b1000_0001_0010_0101 = .ok (.subReg 1 2) ∧ decodeWord 0b1000_0001_0010_0110 = .ok (.shr 1 2) ∧
    decodeWord 0b1000_0001_0010_0111 = .ok (.subnReg 1 2) ∧ decodeWord 0b1000_0001_0010_1110 = .ok (.shl 1 2) ∧
    decodeWord 0b1001_0001_0010_0000 = .ok (.sneReg 1 2) := by decide

theorem test_decode_draw_word : decodeWord 0b1101_0001_0010_0101 = .ok (.drw 1 2 5) := by decide

theorem test_decode_key_words :
    decodeWord 0b1110_0001_1001_1110 = .ok (.skp 1) ∧ decodeWord 0b1110_0001_1010_0001 = .ok (.sknp 1) ∧
    decodeWord 0b1111_0100_0000_1010 = .ok (.ldVxK 4) := by decide

theorem test_decode_timer_words :
    decodeWord 0b1111_0011_0000_0111 = .ok (.ldVxDt 3) ∧ decodeWord 0b1111_0011_0001_0101 = .ok (.ldDtVx 3) ∧
    decodeWord 0b1111_0011_0001_1000 = .ok (.ldStVx 3) := by decide

theorem test_decode_index_words :
    decodeWord 0b1111_0010_0001_1110 = .ok (.addI 2) ∧ decodeWord 0b1111_0010_0010_1001 = .ok (.ldF 2) ∧
    decodeWord 0b1111_0010_0011_0011 = .ok (.ldB 2) ∧ decodeWord 0b1111_0010_0101_0101 = .ok (.stRegs 2) ∧
    decodeWord 0b1111_0010_0110_0101 = .ok (.ldRegs 2) := by decide

/-- V5: words of every unrecognized space. -/
theorem test_decode_unrecognized :
    [0x0000, 0x0123, 0x00E1, 0x01E0, 0x5121, 0x8008, 0x800F, 0x9001, 0xE000, 0xE1A2, 0xF000, 0xF1FF, 0xFFFF].all
      (fun w : Word => decodeWord w = .error (.unrecognized w)) = true := by decide

theorem test_decode_truncated : decode [0x6A] = .error .truncated ∧ decode [] = .error .truncated := by decide

/-- W11: the byte at the lower address holds bits 15-8. -/
theorem test_decode_big_endian : decode [0x6A, 0x2F, 0x99] = .ok (.ldImm 0xA 0x2F, [0x99]) := by decide

theorem test_encode_6A2F : encode (.ldImm 0xA 0x2F) = 0x6A2F ∧ encodeBytes (.ldImm 0xA 0x2F) = [0x6A, 0x2F] := by decide

theorem test_decodeTableWord : decodeTableWord 16 0x6A2F = some (.ldImm 0xA 0x2F) := by decide

/-- Lines of the listings P1 to P3. -/
theorem test_listing : [0x6AFE, 0xA300, 0x2210, 0xF265, 0x1208, 0xFA33, 0x00EE, 0xF029, 0xD125, 0x3000].map wordListing =
    ["LD VA, FE", "LD I, 300", "CALL 210", "LD V2, [I]", "JP 208", "LD B, VA", "RET", "LD F, V0", "DRW V1, V2, 5",
     "SE V0, 00"] := by decide

/-- A word that is no instruction. -/
theorem test_listing_data : wordListing 0x0000 = "DW 0x0000" := by decide

/-! ## The cycle -/

/-- V1. -/
theorem test_fetch_at_FFE : (after (atPc 0xFFE 0x6012)).map (fun t => (t.reg[(0 : RegIdx)], t.pc, t.fault)) =
    some (0x12, 0x1000, none) := by decide
/-- V2. -/
theorem test_fetch_at_FFF : faultAfter (State.reset.setPc 0xFFF) = some (some (2, 0xFFF, 0, 0xFFF)) := by decide
/-- V3. -/
theorem test_fetch_odd_pc : (after (atPc 0x201 0x6123)).map (fun t => (t.reg[(1 : RegIdx)], t.pc)) =
    some (0x23, 0x203) := by decide
/-- V6. -/
theorem test_fault_no_tick : (after ((at200 0xFFFF).setDelay 5)).map (fun t => (t.delay, faultOut t)) =
    some (5, some (1, 0x200, 0xFFFF, 0xFFFF)) := by decide
/-- V7, V8. -/
theorem test_halt_and_reset :
    (after2 ((at200 0xFFFF).setDelay 5)).map (fun t => (t.delay, t.pc, (hostReset t).fault, (hostReset t).delay)) =
    some (5, 0x200, none, 0) := by decide
/-- V10. -/
theorem test_fetch_after_skip : (after (atPc 0xFFC 0x3000)).bind faultAfter = some (some (2, 0x1000, 0x3000, 0x1000)) := by
  decide
/-- W12: a program loaded, two cycles, the glyph drawn. -/
theorem test_sprite_scenario :
    (nextOf (loadProgram [0xA2, 0x0A, 0xD0, 0x05, 0, 0, 0, 0, 0, 0, 0xF0, 0x90, 0x90, 0x90, 0xF0] State.reset)).bind
      (fun s => (after2 s).map fun t => (t.index, t.pc, t.drawFlag, t.reg[(15 : RegIdx)],
        [pixelAt t.fb 3 0, pixelAt t.fb 1 1, pixelAt t.fb 3 4, pixelAt t.fb 4 0])) =
    some (0x20A, 0x204, true, 0, [true, false, true, false]) := by decide

/-- V85. -/
theorem test_program_too_large : errorOut (loadProgram (List.replicate 3585 0) State.reset) = some (7, 3585) := by
  have h : (List.replicate 3585 (0 : Byte)).length = 3585 := List.length_replicate
  rw [loadProgram, programFits, h]; rfl

/-! ## Control transfer -/

/-- V11. -/
theorem test_jp : pcAfter (at200 0x1234) = some 0x234 := by decide
/-- V12. -/
theorem test_call : (after (atPc 0x204 0x2210)).map (fun t => (t.stack[0], t.sp, t.pc)) = some (0x204, 1, 0x210) := by decide
/-- V15, its last cycle. -/
theorem test_call_overflow : faultAfter ((at200 0x2200).setSp 16) = some (some (4, 0x200, 0x2200, 16)) := by decide
/-- V13. -/
theorem test_ret : (after (((at200 0x00EE).setStack (State.reset.stack.set 0 0x204)).setSp 1)).map
    (fun t => (t.sp, t.pc, t.stack[0])) = some (0, 0x206, 0x204) := by decide
/-- V14. -/
theorem test_ret_underflow : faultAfter (at200 0x00EE) = some (some (5, 0x200, 0x00EE, 0)) := by decide
/-- W5. -/
theorem test_seImm : pcAfter ((at200 0x3342).writeReg 3 0x42) = some 0x204 ∧
    pcAfter ((at200 0x3342).writeReg 3 0x41) = some 0x202 := by decide
/-- V18, V19. -/
theorem test_sneImm : pcAfter ((at200 0x4342).writeReg 3 0x41) = some 0x204 ∧
    pcAfter ((at200 0x4342).writeReg 3 0x42) = some 0x202 := by decide
/-- V20, and the two registers apart. -/
theorem test_seReg : pcAfter (((at200 0x5120).writeReg 1 7).writeReg 2 7) = some 0x204 ∧
    pcAfter ((at200 0x5120).writeReg 1 7) = some 0x202 := by decide
/-- V22, V23. -/
theorem test_sneReg : pcAfter (((at200 0x9120).writeReg 1 7).writeReg 2 8) = some 0x204 ∧
    pcAfter ((at200 0x9110).writeReg 1 7) = some 0x202 := by decide
/-- V16, V17. -/
theorem test_jpV0 : pcAfter (((at200 0xB300).writeReg 0 0x10).writeReg 3 0x77) = some 0x310 ∧
    ((after ((at200 0xBFFF).writeReg 0 0xFF)).bind faultAfter) = some (some (2, 0x10FE, 0xBFFF, 0x10FE)) := by decide

/-! ## Register file and ALU -/

/-- W11. -/
theorem test_ldImm : (after (at200 0x6A2F)).map (fun t => (t.reg[(10 : RegIdx)], t.pc)) = some (0x2F, 514) := by decide
/-- W2. -/
theorem test_addImm_wraps : regAndFlag 1 ((at200 0x7102).writeReg 1 0xFF) = some (1, 0) := by decide
/-- V37. -/
theorem test_addImm_flag_register : regAfter 15 ((at200 0x7F01).writeReg 15 0xFF) = some 0 := by decide
/-- V24. -/
theorem test_ldReg : regAfter 1 ((at200 0x8120).writeReg 2 0x55) = some 0x55 := by decide
/-- V25. -/
theorem test_orReg : regAndFlag 1 ((((at200 0x8121).writeReg 1 0x0F).writeReg 2 0xF0).writeReg 15 1) = some (0xFF, 1) := by
  decide
/-- V26. -/
theorem test_andReg : regAfter 1 (((at200 0x8122).writeReg 1 0x3C).writeReg 2 0x0F) = some 0x0C := by decide
/-- V27. -/
theorem test_xorReg : regAfter 1 (((at200 0x8123).writeReg 1 0x3C).writeReg 2 0x0F) = some 0x33 := by decide
/-- W3 (both adds) and V29. -/
theorem test_addReg : regAndFlag 1 ((at200 0x8124).writeReg 2 0xFF) = some (0xFF, 0) ∧
    regAndFlag 1 (((at200 0x8124).writeReg 1 0xFF).writeReg 2 1) = some (0, 1) ∧
    regAndFlag 1 ((at200 0x8114).writeReg 1 0x80) = some (0, 1) := by decide
/-- V40, V41, V42 under both orders. -/
theorem test_addReg_corners :
    regAfter 15 (((at200 0x8F14).writeReg 15 0x80).writeReg 1 0x90) = some 0x91 ∧
    regAfter 15 (latched (((at200 0x8F14).writeReg 15 0x80).writeReg 1 0x90)) = some 0x10 ∧
    regAndFlag 1 (((at200 0x81F4).writeReg 1 0x10).writeReg 15 0xF5) = some (0x11, 1) ∧
    regAndFlag 1 (latched (((at200 0x81F4).writeReg 1 0x10).writeReg 15 0xF5)) = some (0x05, 1) ∧
    regAfter 15 ((at200 0x8FF4).writeReg 15 0x80) = some 2 ∧
    regAfter 15 (latched ((at200 0x8FF4).writeReg 15 0x80)) = some 0 := by decide
/-- W4 and V30. -/
theorem test_subReg : regAndFlag 1 (((at200 0x8125).writeReg 1 1).writeReg 2 2) = some (0xFF, 0) ∧
    regAndFlag 1 (((at200 0x8125).writeReg 1 2).writeReg 2 1) = some (1, 1) ∧
    regAndFlag 1 ((at200 0x8115).writeReg 1 7) = some (0, 1) := by decide
/-- V43, V44 under both orders. -/
theorem test_subReg_corners :
    regAfter 15 (((at200 0x8F15).writeReg 15 5).writeReg 1 3) = some 0xFE ∧
    regAfter 15 (latched (((at200 0x8F15).writeReg 15 5).writeReg 1 3)) = some 2 ∧
    regAndFlag 1 (((at200 0x81F5).writeReg 1 5).writeReg 15 3) = some (4, 1) ∧
    regAndFlag 1 (latched (((at200 0x81F5).writeReg 1 5).writeReg 15 3)) = some (2, 1) := by decide
/-- V31, V32. -/
theorem test_shr : regAndFlag 1 ((at200 0x8106).writeReg 1 5) = some (2, 1) ∧
    regAndFlag 1 ((((at200 0x8126).writeReg 1 4).writeReg 2 0xFF).writeReg 15 9) = some (2, 0) := by decide
/-- V46 under both orders. -/
theorem test_shr_corner : regAfter 15 ((at200 0x8F06).writeReg 15 3) = some 0 ∧
    regAfter 15 (latched ((at200 0x8F06).writeReg 15 3)) = some 1 := by decide
/-- V33, V34. -/
theorem test_subnReg : regAndFlag 1 (((at200 0x8127).writeReg 1 2).writeReg 2 1) = some (0xFF, 0) ∧
    regAndFlag 1 (((at200 0x8127).writeReg 1 3).writeReg 2 3) = some (0, 1) := by decide
/-- V47, V48 under both orders. -/
theorem test_subnReg_corners :
    regAfter 15 (((at200 0x8F17).writeReg 15 3).writeReg 1 5) = some 4 ∧
    regAfter 15 (latched (((at200 0x8F17).writeReg 15 3).writeReg 1 5)) = some 2 ∧
    regAndFlag 1 (((at200 0x81F7).writeReg 1 5).writeReg 15 3) = some (0xFB, 0) ∧
    regAndFlag 1 (latched (((at200 0x81F7).writeReg 1 5).writeReg 15 3)) = some (0xFE, 0) := by decide
/-- V35, V36. -/
theorem test_shl : regAndFlag 1 ((at200 0x810E).writeReg 1 0x81) = some (2, 1) ∧
    regAndFlag 1 ((at200 0x810E).writeReg 1 0x7F) = some (0xFE, 0) := by decide
/-- V50. -/
theorem test_shl_corner : regAfter 15 ((at200 0x8FFE).writeReg 15 0x81) = some 2 := by decide
/-- V38. -/
theorem test_rnd : (after (injectRandom [0xA5, 0x11] (at200 0xC30F))).map (fun t => (t.reg[(3 : RegIdx)], t.randomIn)) =
    some (5, [0x11]) := by decide
/-- V39, with an injected byte. -/
theorem test_rnd_mask_zero : regAfter 3 ((injectRandom [0xA5] (at200 0xC300)).writeReg 3 9) = some 0 := by decide

/-! ## Index register and memory blocks -/

/-- V51. -/
theorem test_ldI : indexAfter (at200 0xA20A) = some 0x20A := by decide
/-- V52, V53. -/
theorem test_addI : indexAfter (((at200 0xF21E).setIndex 0x300).writeReg 2 0x10) = some 0x310 ∧
    (after (((at200 0xF11E).setIndex 0xFFFF).writeReg 1 1)).map (fun t => (t.index, t.reg[(15 : RegIdx)])) =
      some (0, 0) := by decide
/-- V55, V56. -/
theorem test_ldF : indexAfter ((at200 0xF029).writeReg 0 7) = some 0x23 ∧
    indexAfter ((at200 0xF129).writeReg 1 0xFF) = some 0x4FB := by decide
/-- W9, V57. -/
theorem test_ldB :
    (after (((at200 0xF133).writeReg 1 0xFF).setIndex 0x300)).map (fun t => (t.mem.filter (·.1 ≥ 0x300), t.index)) =
      some ([(0x300, 2), (0x301, 5), (0x302, 5)], 0x300) ∧
    (after (((at200 0xF133).writeReg 1 123).setIndex 0xFFD)).map (fun t => (t.readByte 0xFFD, t.readByte 0xFFF)) =
      some (1, 3) := by decide
/-- V59. -/
theorem test_ldB_fatal : (after (((at200 0xF133).writeReg 1 99).setIndex 0xFFE)).map (fun t => (faultOut t, t.readByte 0xFFE)) =
    some (some (3, 0x200, 0xF133, 0x1000), 0) := by decide
/-- The example of R165. -/
theorem test_stRegs :
    (after ((((at200 0xF255).writeReg 0 1).writeReg 1 2 |>.writeReg 2 3 |>.writeReg 3 4).setIndex 0x400)).map
      (fun t => (t.mem.filter (·.1 ≥ 0x300), t.index)) = some ([(0x400, 1), (0x401, 2), (0x402, 3)], 0x400) := by decide
/-- V61. -/
theorem test_stRegs_fatal : (after (((at200 0xF355).writeReg 0 1).setIndex 0xFFD)).map
    (fun t => (faultOut t, t.readByte 0xFFD)) = some (some (3, 0x200, 0xF355, 0x1000), 0) := by decide
/-- V64. -/
theorem test_ldRegs : (after (at200 0xFF65)).map (fun t => (t.reg.toList, t.index)) =
    some ([0xF0, 0x90, 0x90, 0x90, 0xF0, 0x20, 0x60, 0x20, 0x20, 0x70, 0xF0, 0x10, 0xF0, 0x80, 0xF0, 0xF0], 0) := by decide
/-- V62, V63. -/
theorem test_ldRegs_edge : (after ((at200 0xF065).setIndex 0xFFF)).map (·.fault) = some none ∧
    faultAfter ((at200 0xF065).setIndex 0x1000) = some (some (3, 0x200, 0xF065, 0x1000)) := by decide

/-! ## Display -/

/-- W6. -/
theorem test_cls : (after (light 63 31 (at200 0x00E0))).map (fun t => (pixelAt t.fb 63 31, t.drawFlag, t.pc)) =
    some (false, true, 0x202) := by decide
/-- V66: the old `reg[0xF]` is the column. -/
theorem test_drw_flag_register_column : (after ((at200 0xDF05).writeReg 15 0x3C)).map
    (fun t => (pixelAt t.fb 60 0, pixelAt t.fb 63 3, pixelAt t.fb 61 1, pixelAt t.fb 0 0, t.reg[(15 : RegIdx)])) =
    some (true, true, false, false, 0) := by decide
/-- V71. -/
theorem test_drw_collision : (after (light 0 0 (((at200 0xD011).setIndex 0x300).writeByte 0x300 0x80))).map
    (fun t => (pixelAt t.fb 0 0, t.reg[(15 : RegIdx)])) = some (false, 1) := by decide

/-! ## Keys and timers -/

/-- V72, V73. -/
theorem test_skp : pcAfter (press 5 ((at200 0xE19E).writeReg 1 5)) = some 0x204 ∧
    pcAfter ((at200 0xE19E).writeReg 1 5) = some 0x202 := by decide
/-- V75. -/
theorem test_skp_fatal : faultAfter ((at200 0xE19E).writeReg 1 0x10) = some (some (6, 0x200, 0xE19E, 0x10)) := by decide
/-- V74, and the key pressed. -/
theorem test_sknp : pcAfter ((at200 0xE1A1).writeReg 1 15) = some 0x204 ∧
    pcAfter (press 15 ((at200 0xE1A1).writeReg 1 15)) = some 0x202 := by decide
/-- V76. -/
theorem test_ldVxDt : (after ((at200 0xF307).setDelay 3)).map (fun t => (t.reg[(3 : RegIdx)], t.delay)) = some (3, 2) := by
  decide
/-- V77, V78. -/
theorem test_ldVxK : (after (press 7 (press 3 (at200 0xF40A)))).map (fun t => (t.reg[(4 : RegIdx)], t.pc)) =
      some (3, 0x202) ∧
    (after ((((at200 0xF40A).setDelay 2).setSound 1).writeReg 4 9)).map
      (fun t => (t.reg[(4 : RegIdx)], t.pc, t.delay, t.sound)) = some (9, 0x200, 1, 0) := by decide
/-- V79 for both values of the parameter. -/
theorem test_ldVxK_last_key : pcAfter (press 15 (at200 0xF40A)) = some 0x200 ∧
    (after (scanF (press 15 (at200 0xF40A)))).map (fun t => (t.reg[(4 : RegIdx)], t.pc)) = some (15, 0x202) := by decide
/-- V80, V81. -/
theorem test_ldDtVx : (after ((at200 0xF015).setDelay 9)).map (·.delay) = some 0 ∧
    (after ((at200 0xF015).writeReg 0 3)).map (·.delay) = some 2 := by decide
/-- The example and the corner of R206. -/
theorem test_ldStVx : (after ((at200 0xF218).writeReg 2 5)).map (fun t => (t.sound, soundActive t)) = some (4, true) ∧
    (after ((at200 0xF218).writeReg 2 1)).map (fun t => (t.sound, soundActive t)) = some (0, false) := by decide

/-! ## Witnesses: concrete states and operands that meet each obligation's hypotheses, at boundary values of each clause -/

/-- A step that answers a next state, for hypotheses of the form `step s = .next t`. -/
theorem step_eq_of_after {s t : State} (h : after s = some t) : step s = .next t := by
  unfold after nextOf at h
  split at h
  · next e => rw [e, Option.some.inj h]
  · cases h
  · cases h

/-- Every state has a state after its cycle whose field `f` is `v`, once `after` says so. -/
theorem exists_step {α : Type} {s : State} {f : State → α} {v : α} (h : (after s).map f = some v) :
    ∃ t, step s = .next t ∧ f t = v := by
  cases e : after s with
  | none => rw [e] at h; cases h
  | some t => rw [e] at h; exact ⟨t, step_eq_of_after e, Option.some.inj h⟩

/-- The same for one instruction's meaning. -/
theorem exists_exec {α : Type} {s : State} {i : Instr} {f : State → α} {v : α} (h : (nextOf (exec i s)).map f = some v) :
    ∃ t, exec i s = .next t ∧ f t = v := by
  cases e : exec i s with
  | next t => rw [e] at h; exact ⟨t, rfl, Option.some.inj h⟩
  | fault r => rw [e] at h; cases h
  | refused r => rw [e] at h; cases h

/-- DecodeOfEncodeIsTheInstruction. -/
theorem test_witness_decode_of_encode : Instr.wf (.drw 15 15 15) = true ∧ Instr.wf (.drw 0 0 0) = true := by decide

/-- EncodeOfDecodeIsTheWord. -/
theorem test_witness_encode_of_decode : decodeWord 0xDFFF = .ok (.drw 15 15 15) := by decide

/-- OpcodeTableDecidesDecoding: the three clauses. -/
theorem test_witness_opcode_table :
    (⟨"FX65", 0xF0FF, 0xF065⟩ : OpcodeRow) ∈ opcodeTable ∧
    (⟨"FX65", 0xF0FF, 0xF065⟩ : OpcodeRow).matchesWord 0xFF65 = true ∧ decodeWord 0xFF65 = .ok (.ldRegs 15) := by decide

/-- FetchReadsTwoBytesBigEndian: `pc` = 0xFFF, `pc` = 0xFFE, and a running state's step. -/
theorem test_witness_fetch : (State.reset.setPc 0xFFF).pc.toNat + 1 > 0xFFF ∧
    (State.reset.setPc 0xFFE).pc.toNat + 1 ≤ 0xFFF ∧ (State.reset.setPc 0xFFE).fault = none ∧
    (after (State.reset.setPc 0xFFE)).isSome = true := by decide

/-- StepRunsTheDecodedInstruction. -/
theorem test_witness_step_runs : (atPc 0xFFE 0x6A2F).fault = none ∧ (atPc 0xFFE 0x6A2F).pc.toNat + 1 ≤ 0xFFF ∧
    (atPc 0xFFE 0x6A2F).readByte 0xFFE = 0x6A ∧ (atPc 0xFFE 0x6A2F).readByte 0xFFF = 0x2F ∧
    decode [0x6A, 0x2F] = .ok (.ldImm 0xA 0x2F, []) := by decide

/-- TimersTickAtTheEndOfEveryCompletedCycle: a completed cycle, of `FX07` at that, and a fatal one. -/
theorem test_witness_timers :
    (∃ t, step ((at200 0xF307).setDelay 1) = .next t ∧ (t.fault, t.delay) = (none, 0)) ∧
    Runs ((at200 0xF307).setDelay 1) (.ldVxDt 3) ∧
    (∃ t, step ((at200 0xFFFF).setDelay 1) = .next t ∧ (t.fault.isSome, t.delay) = (true, 1)) :=
  ⟨exists_step (by decide), ⟨by decide, by decide, by decide⟩, exists_step (by decide)⟩

/-- A halted state. -/
def halted : State := (at200 0xFFFF).setFault (some ⟨.unrecognizedOpcode, 0x200, 0xFFFF, 0xFFFF⟩)

/-- HaltedCoreChangesNothing, OnlyResetLeavesAHalt: with reset and with another operation. -/
theorem test_witness_halted : halted.fault ≠ none ∧ (nextOf (hostStep .reset halted)).isSome = true ∧
    (nextOf (hostStep .stepCycle halted)).isSome = true ∧
    (nextOf (hostStep (.loadProgram [1]) halted)).isSome = true := by decide

/-- FaultEntryIsPrecise: a fatal condition after and before `opcode` is loaded. -/
theorem test_witness_fault_entry :
    (∃ t, step (at200 0xFFFF) = .next t ∧ t.fault.isSome = true) ∧ (at200 0xFFFF).pc.toNat + 1 ≤ 0xFFF ∧
    (∃ t, step (State.reset.setPc 0xFFF) = .next t ∧ t.fault.isSome = true) ∧
    (State.reset.setPc 0xFFF).pc.toNat + 1 > 0xFFF :=
  ⟨exists_step (by decide), by decide, exists_step (by decide), by decide⟩

/-- CycleFaultsExactlyWhenARuleSays: the rules' conditions at both sides of their bounds. -/
theorem test_witness_cycle_raises :
    cycleRaises (State.reset.setPc 0xFFE) = some (.unrecognizedOpcode, 0) ∧
    cycleRaises (State.reset.setPc 0xFFF) = some (.fetchOutOfRange, 0xFFF) ∧
    cycleRaises (at200 0x00EE) = some (.stackUnderflow, 0) ∧ cycleRaises ((at200 0x00EE).setSp 1) = none ∧
    cycleRaises ((at200 0x2200).setSp 16) = some (.stackOverflow, 16) ∧ cycleRaises ((at200 0x2200).setSp 15) = none ∧
    cycleRaises ((at200 0xF133).setIndex 0xFFE) = some (.memOutOfRange, 0x1000) ∧
    cycleRaises ((at200 0xF133).setIndex 0xFFD) = none ∧
    cycleRaises ((at200 0xFF55).setIndex 0x1001) = some (.memOutOfRange, 0x1001) ∧
    cycleRaises ((at200 0xFF55).setIndex 0xFF0) = none ∧ cycleRaises ((at200 0xFF65).setIndex 0xFF0) = none ∧
    cycleRaises ((at200 0xFF65).setIndex 0xFF1) = some (.memOutOfRange, 0x1000) ∧
    cycleRaises ((at200 0xD01F).setIndex 0xFF2) = some (.memOutOfRange, 0x1000) ∧
    cycleRaises ((at200 0xD01F).setIndex 0xFF1) = none ∧ cycleRaises ((at200 0xD010).setIndex 0xFFFF) = none ∧
    cycleRaises ((at200 0xE19E).writeReg 1 16) = some (.keyOutOfRange, 16) ∧
    cycleRaises ((at200 0xE1A1).writeReg 1 15) = none := by decide

/-- StepKeepsTheInvariant, EveryRunKeepsTheInvariant. -/
theorem test_witness_invariant : State.reset.Inv ∧ (after State.reset).isSome = true :=
  ⟨⟨by decide, by decide, by decide⟩, by decide⟩

/-- MemoriesThatReadAlikeAreEqual. -/
theorem test_witness_memories : Memory.wf defaultFont [(0x300, 1), (0xFFF, 2)] = true ∧
    (∀ a : Nat, Memory.read defaultFont [(0x300, 1), (0xFFF, 2)] a = Memory.read defaultFont [(0x300, 1), (0xFFF, 2)] a) :=
  ⟨by decide, fun _ => rfl⟩

/-- AccessAboveFFFIsFatal. -/
theorem test_witness_access : (0x1000 : Nat) > 0xFFF ∧ (0xFFF : Nat) ≤ 0xFFF := by decide

/-- RangeCheckDecidesTheBlock. -/
theorem test_witness_range_check :
    (∃ k : Nat, k < ([1, 2] : List Byte).length ∧ 0xFFF + k > 0xFFF) ∧
    (∀ k : Nat, k < ([1, 2] : List Byte).length → 0xFFE + k ≤ 0xFFF) :=
  ⟨⟨1, by decide, by decide⟩, fun k h => by have : k < 2 := h; omega⟩

/-- StoredBytesAreFetched. -/
theorem test_witness_stored_bytes : (State.reset.setPc 0xFFE).pc.toNat + 1 ≤ 0xFFF := by decide

/-- NoCycleWritesKeysOrParameters: a draw. -/
theorem test_witness_draw : ∃ t, step (injectRandom [7] (at200 0xC3FF)) = .next t ∧ (t.randomIn, t.randomDraws) = ([], 1) :=
  exists_step (by decide)

/-- IndexChangesOnlyThroughItsWriters. -/
theorem test_witness_index_changes : ∃ t, step (at200 0xAFFF) = .next t ∧ t.index = 0xFFF := exists_step (by decide)

/-- MemoryChangesOnlyThroughStores: the last byte of each store. -/
theorem test_witness_memory_changes :
    (∃ t, step (((at200 0xF133).writeReg 1 9).setIndex 0xFFD) = .next t ∧ t.readByte 0xFFF = 9) ∧
    (∃ t, step (((at200 0xFF55).writeReg 15 9).setIndex 0xFF0) = .next t ∧ t.readByte 0xFFF = 9) :=
  ⟨exists_step (by decide), exists_step (by decide)⟩

/-- StackChangesOnlyThroughCallAndReturn. -/
theorem test_witness_stack_changes :
    (∃ t, step (at200 0x2FFF) = .next t ∧ (t.stack[0], t.sp) = (0x200, 1)) ∧
    (∃ t, step ((at200 0x00EE).setSp 16) = .next t ∧ t.sp = 15) :=
  ⟨exists_step (by decide), exists_step (by decide)⟩

/-- DisplayChangesOnlyThroughClearAndDraw: `00E0` changes a pixel, a cycle starts with the draw flag up, a draw sets it. -/
theorem test_witness_display_changes :
    (∃ t, step ((light 63 31 (at200 0x00E0)).setDrawFlag true) = .next t ∧ (pixelAt t.fb 63 31, t.fault) = (false, none)) ∧
    (∃ t, step (at200 0xD011) = .next t ∧ (pixelAt t.fb 0 0, t.drawFlag, t.fault) = (true, true, none)) :=
  ⟨exists_step (by decide), exists_step (by decide)⟩

/-- FlagRegisterHasExactlySixImplicitWriters: both clauses. -/
theorem test_witness_flag_writers :
    (∃ t, exec (.ldRegs 14) State.reset = .next t ∧ t.fault = none) ∧ flagWriter (.ldRegs 14) = false ∧
    destination (.ldRegs 14) 15 = false ∧
    (∃ t, exec (.drw 15 15 1) State.reset = .next t ∧ t.fault = none) ∧ State.reset.fault = none ∧
    flagWriter (.drw 15 15 1) = true ∧ destination (.drw 15 15 1) 15 = false :=
  ⟨exists_exec (by decide), by decide, by decide, exists_exec (by decide), by decide, by decide, by decide⟩

/-- OnlyDestinationRegistersChange: a register that is no flag, and the flag register of no flag writer. -/
theorem test_witness_destination :
    (∃ t, exec (.addReg 1 2) State.reset = .next t ∧ t.fault = none) ∧ destination (.addReg 1 2) 14 = false ∧
    (14 : RegIdx) ≠ 15 ∧
    (∃ t, exec (.orReg 1 2) State.reset = .next t ∧ t.fault = none) ∧ destination (.orReg 1 2) 15 = false ∧
    flagWriter (.orReg 1 2) = false :=
  ⟨exists_exec (by decide), by decide, by decide, exists_exec (by decide), by decide, by decide⟩

/-- ConstructionAndResetLoadTheFontAndZeroTheRest: construction, and reset of a halted core; the font's last byte. -/
theorem test_witness_reset :
    State.reset = State.resetWith defaultParams ∧ hostReset halted = hostReset halted ∧
    halted.params = defaultParams ∧ State.reset.readByte 79 = 0x80 ∧ State.reset.readByte 80 = 0 :=
  ⟨rfl, rfl, rfl, by decide, by decide⟩

/-- LoadProgramPlacesTheImage: 3584 and 3585 bytes. -/
theorem test_witness_load_program :
    (List.replicate 3584 (1 : Byte)).length ≤ 3584 ∧ (List.replicate 3585 (1 : Byte)).length > 3584 := by
  rw [List.length_replicate, List.length_replicate]; decide

/-- OnlyAckDrawAndResetClearTheDrawFlag. -/
theorem test_witness_clear_draw_flag :
    (State.reset.setDrawFlag true).drawFlag = true ∧
    (nextOf (hostStep .ackDraw (State.reset.setDrawFlag true))).map (·.drawFlag) = some false ∧
    (nextOf (hostStep .reset (State.reset.setDrawFlag true))).map (·.drawFlag) = some false := by decide

/-- JumpSetsPc: a jump to 0xFFF, and a row word. -/
theorem test_witness_jp : Runs (at200 0x1FFF) (.jp 0xFFF) ∧ (0x1FFF : Word) &&& 0xF000 = 0x1000 :=
  ⟨⟨by decide, by decide, by decide⟩, by decide⟩

/-- The opcode rows of the per-instruction statements: for every mask and value a word that meets it. -/
theorem test_witness_rows :
    [(0x3FFF, 0xF000, 0x3000), (0x4FFF, 0xF000, 0x4000), (0x5FF0, 0xF00F, 0x5000), (0x9FF0, 0xF00F, 0x9000),
     (0xBFFF, 0xF000, 0xB000), (0x2FFF, 0xF000, 0x2000), (0x00EE, 0xFFFF, 0x00EE), (0x6FFF, 0xF000, 0x6000),
     (0x7FFF, 0xF000, 0x7000), (0x8FF0, 0xF00F, 0x8000), (0x8FF1, 0xF00F, 0x8001), (0x8FF2, 0xF00F, 0x8002),
     (0x8FF3, 0xF00F, 0x8003), (0x8FF4, 0xF00F, 0x8004), (0x8FF5, 0xF00F, 0x8005), (0x8FF7, 0xF00F, 0x8007),
     (0x8FF6, 0xF00F, 0x8006), (0x8FFE, 0xF00F, 0x800E), (0xCFFF, 0xF000, 0xC000), (0xAFFF, 0xF000, 0xA000),
     (0xFF29, 0xF0FF, 0xF029), (0xFF1E, 0xF0FF, 0xF01E), (0xFF33, 0xF0FF, 0xF033), (0xFF55, 0xF0FF, 0xF055),
     (0xFF65, 0xF0FF, 0xF065), (0x00E0, 0xFFFF, 0x00E0), (0xDFFF, 0xF000, 0xD000), (0xEF9E, 0xF0FF, 0xE09E),
     (0xEFA1, 0xF0FF, 0xE0A1), (0xFF07, 0xF0FF, 0xF007), (0xFF0A, 0xF0FF, 0xF00A), (0xFF15, 0xF0FF, 0xF015),
     (0xFF18, 0xF0FF, 0xF018)].all (fun r : Word × Word × Word => r.1 &&& r.2.1 = r.2.2) = true := by decide

/-- RegisterSkipsFollowTheSkipPattern: words with a nonzero function nibble. -/
theorem test_witness_register_skip_words :
    ((0x5001 : Word).toNat / 4096 = 5 ∧ (0x5001 : Word).toNat % 16 ≠ 0) ∧
    ((0x9FFF : Word).toNat / 4096 = 9 ∧ (0x9FFF : Word).toNat % 16 ≠ 0) := by decide

/-- CallPushesItsOwnAddress, ReturnPopsAndAddsTwo: the last free slot, a full stack, one occupied slot, an empty stack. -/
theorem test_witness_stack : (State.reset.setSp 15).sp.val < 16 ∧ (State.reset.setSp 16).sp.val = 16 ∧
    (State.reset.setSp 1).sp.val ≠ 0 ∧ State.reset.sp.val = 0 := by decide

/-- ReturnResumesAfterTheCall: the call's own next state. -/
theorem test_witness_return_after_call : (State.reset.setSp 15).sp.val < 16 ∧
    ∃ t u : State, exec (.call 0x300) (State.reset.setSp 15) = .next t ∧ u.stack = t.stack ∧ u.sp = t.sp ∧ t.sp = 16 := by
  obtain ⟨t, h, e⟩ : ∃ t, exec (.call 0x300) (State.reset.setSp 15) = .next t ∧ t.sp = 16 := exists_exec (by decide)
  exact ⟨by decide, t, t, h, rfl, rfl, e⟩

/-- SequentialFlagRegisterCorners. -/
theorem test_witness_corners : State.reset.params.aluOrder = .sequential ∧ (0 : RegIdx) ≠ 15 ∧ (14 : RegIdx) ≠ 15 := by
  decide

/-- RandomByteIsMasked: an injected byte. -/
theorem test_witness_random : (injectRandom [0xA5] State.reset).randomIn = [0xA5] := by decide

/-- DecimalDigitsAreStored, RegistersAreStoredFromIndexUp, RegistersAreLoadedFromIndexUp: both sides of the bound. -/
theorem test_witness_blocks :
    (State.reset.setIndex 0xFFD).index.toNat + 2 ≤ 0xFFF ∧ (State.reset.setIndex 0xFFE).index.toNat + 2 > 0xFFF ∧
    (State.reset.setIndex 0xFF0).index.toNat + (15 : RegIdx).val ≤ 0xFFF ∧
    (State.reset.setIndex 0xFF1).index.toNat + (15 : RegIdx).val > 0xFFF := by decide

/-- LoadAfterStoreRestoresTheRegisters: the store's own next state. -/
theorem test_witness_load_after_store : (State.reset.setIndex 0xFF0).index.toNat + (15 : RegIdx).val ≤ 0xFFF ∧
    ∃ t u : State, exec (.stRegs 15) (State.reset.setIndex 0xFF0) = .next t ∧ u.index = (State.reset.setIndex 0xFF0).index ∧
      SameBytes t u := by
  obtain ⟨t, h, e⟩ : ∃ t, exec (.stRegs 15) (State.reset.setIndex 0xFF0) = .next t ∧ t.index = 0xFF0 :=
    exists_exec (by decide)
  exact ⟨by decide, t, t, h, e, fun _ => rfl⟩

/-- SpriteDrawFlipsAndDetectsCollisions, SpriteOutsideMemoryIsFatal: both sides of the bound, and no rows at all. -/
theorem test_witness_sprite_range :
    (State.reset.setIndex 0xFF1).index.toNat + 15 - 1 ≤ 0xFFF ∧ (State.reset.setIndex 0xFF2).index.toNat + 15 - 1 > 0xFFF ∧
    ((0 : Nat) = 0 ∨ (State.reset.setIndex 0xFFFF).index.toNat + 0 - 1 ≤ 0xFFF) := by decide

/-- SpriteDrawFlipsAndDetectsCollisions: a sprite bit over the last pixel, a pixel under no sprite bit, a collision and none. -/
theorem test_witness_sprite_bits :
    spriteBitOver ((State.reset.writeReg 0 63).writeReg 1 31) 0 1 1 63 31 ∧
    ¬ spriteBitOver ((State.reset.writeReg 0 63).writeReg 1 31) 0 1 1 62 31 ∧
    (∃ t, exec (.drw 0 1 1) (light 0 0 State.reset) = .next t ∧ (pixelAt t.fb 0 0, t.reg[(15 : RegIdx)]) = (false, 1)) ∧
    (∃ t, exec (.drw 0 1 1) State.reset = .next t ∧ (pixelAt t.fb 0 0, t.reg[(15 : RegIdx)]) = (true, 0)) := by
  refine ⟨⟨0, 0, by decide, by decide, by decide, by decide, by decide⟩, ?_, exists_exec (by decide), exists_exec (by decide)⟩
  have hx : (((State.reset.writeReg 0 63).writeReg 1 31).reg[(0 : RegIdx)]).toNat = 63 := by decide
  rintro ⟨c, r, -, -, h, -, -⟩
  omega

/-- DrawingTwiceRestoresTheScreen: on a blank screen. -/
theorem test_witness_drawing_twice : (0 : RegIdx) ≠ 15 ∧ (1 : RegIdx) ≠ 15 ∧ State.reset.index.toNat + 5 - 1 ≤ 0xFFF ∧
    (∀ (px py : Nat) (hx : px < 64) (hy : py < 32), spriteBitOver State.reset 0 1 5 px py →
      State.reset.fb[py][px] = false) :=
  ⟨by decide, by decide, by decide, fun px py hx hy _ => by simp [State.reset, State.resetWith]⟩

/-- KeySkipsReadTheNamedKey: both sides of the bound. -/
theorem test_witness_key_skip : ((State.reset.writeReg 1 15).reg[(1 : RegIdx)]).toNat < 16 ∧
    ((State.reset.writeReg 1 16).reg[(1 : RegIdx)]).toNat > 0xF := by decide

/-- KeyWaitTakesTheLowestPressedKey: key 0xE, the last one scanned by default; key 0xF where it is scanned; and no key found,
with key 0xF pressed where it is not. -/
theorem test_witness_key_wait :
    ((14 : KeyIdx).val ≤ (press 14 State.reset).params.fx0aLastKey.toNat ∧ (press 14 State.reset).key[(14 : KeyIdx)] = true ∧
      ∀ j : KeyIdx, j < 14 → (press 14 State.reset).key[j] = false) ∧
    ((15 : KeyIdx).val ≤ (scanF (press 15 State.reset)).params.fx0aLastKey.toNat ∧
      (scanF (press 15 State.reset)).key[(15 : KeyIdx)] = true ∧
      ∀ j : KeyIdx, j < 15 → (scanF (press 15 State.reset)).key[j] = false) ∧
    (∀ k : KeyIdx, k.val ≤ (press 15 State.reset).params.fx0aLastKey.toNat → (press 15 State.reset).key[k] = false) := by
  decide

/-- TimerWritesAreTickedInTheSameCycle. -/
theorem test_witness_timer_writes : Runs ((at200 0xF115).writeReg 1 1) (.ldDtVx 1) ∧
    Runs ((at200 0xF118).writeReg 1 2) (.ldStVx 1) :=
  ⟨⟨by decide, by decide, by decide⟩, ⟨by decide, by decide, by decide⟩⟩

end Sys2Proof.Tests
end

section
/-! What an executed instruction can do to the state, said once (`ExecEffect`), and which elements of the state each effect
leaves alone. -/

namespace Sys2Proof.Proofs

open Sys2Proof Sys2Proof.Machine Sys2Proof.Claims

/-- `ExecEffect s i t`: what `i` can make of `s`. Instructions that differ only in the condition they test or the value they
compute share a constructor; every other one has its own, with the guard under which it completes. -/
inductive ExecEffect (s : State) : Instr → State → Prop
  | fatal {i : Instr} (f : Fatal) : ExecEffect s i (s.raiseFatal f)
  | skip {i : Instr} (c : Bool) (hw : flagWriter i = false) : ExecEffect s i (s.skipIf c)
  | jp (nnn : BitVec 12) : ExecEffect s (.jp nnn) (s.setPc (addrOperand nnn))
  | jpV0 (nnn : BitVec 12) : ExecEffect s (.jpV0 nnn) (s.setPc (addrOperand nnn + zext16 (s.readReg 0)))
  | call (nnn : BitVec 12) (h : s.sp.val < 16) : ExecEffect s (.call nnn)
      (((s.setStack (s.stack.set s.sp.val s.pc)).setSp ⟨s.sp.val + 1, by omega⟩).setPc (addrOperand nnn))
  | ret (h : s.sp.val ≠ 0) : ExecEffect s .ret
      ((s.setSp ⟨s.sp.val - 1, by omega⟩).setPc (s.stack[s.sp.val - 1]'(by omega) + 2))
  | result {i : Instr} (x : RegIdx) (v : Byte) (hw : flagWriter i = false) (hx : destination i x = true) :
      ExecEffect s i (s.writeReg x v).advance
  | flagged {i : Instr} (x : RegIdx) (flag v : Byte) (hw : flagWriter i = true) (hx : destination i x = true)
      (hbit : flag = 0 ∨ flag = 1) : ExecEffect s i ((s.writeReg flagReg flag).writeReg x v).advance
  | rnd (x : RegIdx) (nn : Byte) :
      ExecEffect s (.rnd x nn) (s.consumeRandom.writeReg x (nn &&& s.nextRandom)).advance
  | cls : ExecEffect s .cls ((s.setFb blankFb).setDrawFlag true).advance
  | drw (x y : RegIdx) (n : Nat) (h : n = 0 ∨ s.index.toNat + n ≤ 0x1000) : ExecEffect s (.drw x y n)
      (((s.writeReg flagReg (collisionFlag (s.drawn x y n).2)).setFb (s.drawn x y n).1).setDrawFlag true).advance
  | ldI (nnn : BitVec 12) : ExecEffect s (.ldI nnn) (s.setIndex (addrOperand nnn)).advance
  | addI (x : RegIdx) : ExecEffect s (.addI x) (s.setIndex (s.index + zext16 (s.readReg x))).advance
  | ldF (x : RegIdx) : ExecEffect s (.ldF x) (s.setIndex (5 * zext16 (s.readReg x))).advance
  | keyWait (x : RegIdx) : ExecEffect s (.ldVxK x) s
  | ldDtVx (x : RegIdx) : ExecEffect s (.ldDtVx x) (s.setDelay (s.readReg x)).advance
  | ldStVx (x : RegIdx) : ExecEffect s (.ldStVx x) (s.setSound (s.readReg x)).advance
  | ldB (x : RegIdx) (h : s.index.toNat + 3 ≤ 0x1000) : ExecEffect s (.ldB x)
      (s.setMem (State.writeBytes s.dataBase (decimalDigits s.reg[x]) s).mem).advance
  | stRegs (x : RegIdx) (h : s.index.toNat + (x.val + 1) ≤ 0x1000) : ExecEffect s (.stRegs x)
      (s.setMem (State.writeBytes s.dataBase (s.regRange x) s).mem).advance
  | ldRegs (x : RegIdx) (h : s.index.toNat + (x.val + 1) ≤ 0x1000) : ExecEffect s (.ldRegs x)
      (s.setRegs (writeRegRange 0
        ((List.range (x.val + 1)).map fun k => s.readByte (s.dataBase + k)) s.reg)).advance

/-! ## Flags -/

theorem flagByte_bit (b : Bool) : flagByte b = 0 ∨ flagByte b = 1 := by
  cases b
  · exact .inl rfl
  · exact .inr rfl

theorem and_one_bit (v : Byte) : v &&& 1 = 0 ∨ v &&& 1 = 1 := by
  have h : v &&& 1 = (BitVec.ofBool (v.getLsbD 0)).setWidth 8 := BitVec.and_one_eq_setWidth_ofBool_getLsbD
  rw [h]
  cases v.getLsbD 0
  · exact .inl rfl
  · exact .inr rfl

/-- Under either statement order the flag is computed from the operands at the start, and the result is written last. -/
theorem writeFlagged_eq (s : State) (flag res : Byte → Byte → Byte) (x y : RegIdx) :
    ∃ v, s.writeFlagged flag res x y = (s.writeReg flagReg (flag s.reg[x] s.reg[y])).writeReg x v := by
  unfold State.writeFlagged
  split
  · exact ⟨_, rfl⟩
  · exact ⟨_, rfl⟩

/-- The effect of the five flag-writing ALU instructions, whatever their flag and result are. -/
theorem ExecEffect.writeFlagged {i : Instr} (s : State) (flag res : Byte → Byte → Byte) (x y : RegIdx)
    (hw : flagWriter i = true) (hx : destination i x = true) (hbit : ∀ a b, flag a b = 0 ∨ flag a b = 1) :
    ExecEffect s i (s.writeFlagged flag res x y).advance := by
  obtain ⟨v, hv⟩ := writeFlagged_eq s flag res x y
  rw [hv]
  exact .flagged x _ v hw hx (hbit _ _)

/-! ## Every instruction answers one of the effects -/

/-- Storing bytes replaces memory. -/
theorem writeBytes_eq_setMem (a : Nat) (bs : List Byte) (s : State) :
    State.writeBytes a bs s = s.setMem (State.writeBytes a bs s).mem :=
  State.writeBytes_eq bs a s

theorem exists_execEffect (i : Instr) (s : State) : ∃ t, exec i s = .next t ∧ ExecEffect s i t := by
  cases i with
  | cls => exact ⟨_, rfl, .cls⟩
  | ret =>
    by_cases h : s.sp.val = 0
    · exact ⟨_, exec_ret_error s h, .fatal _⟩
    · exact ⟨_, exec_ret_ok s h, .ret h⟩
  | jp nnn => exact ⟨_, rfl, .jp nnn⟩
  | call nnn =>
    by_cases h : s.sp.val < 16
    · exact ⟨_, exec_call_ok nnn s h, .call nnn h⟩
    · exact ⟨_, exec_call_error nnn s (by omega), .fatal _⟩
  | seImm x nn => exact ⟨_, rfl, .skip _ rfl⟩
  | sneImm x nn => exact ⟨_, rfl, .skip _ rfl⟩
  | seReg x y => exact ⟨_, rfl, .skip _ rfl⟩
  | sneReg x y => exact ⟨_, rfl, .skip _ rfl⟩
  | ldImm x nn => exact ⟨_, rfl, .result x _ rfl (decide_eq_true rfl)⟩
  | addImm x nn => exact ⟨_, rfl, .result x _ rfl (decide_eq_true rfl)⟩
  | ldReg x y => exact ⟨_, rfl, .result x _ rfl (decide_eq_true rfl)⟩
  | orReg x y => exact ⟨_, rfl, .result x _ rfl (decide_eq_true rfl)⟩
  | andReg x y => exact ⟨_, rfl, .result x _ rfl (decide_eq_true rfl)⟩
  | xorReg x y => exact ⟨_, rfl, .result x _ rfl (decide_eq_true rfl)⟩
  | addReg x y =>
    exact ⟨_, rfl, .writeFlagged s _ _ x y rfl (decide_eq_true rfl) fun _ _ => flagByte_bit _⟩
  | subReg x y =>
    exact ⟨_, rfl, .writeFlagged s _ _ x y rfl (decide_eq_true rfl) fun _ _ => flagByte_bit _⟩
  | shr x y =>
    exact ⟨_, rfl, .writeFlagged s _ _ x y rfl (decide_eq_true rfl) fun _ _ => and_one_bit _⟩
  | subnReg x y =>
    exact ⟨_, rfl, .writeFlagged s _ _ x y rfl (decide_eq_true rfl) fun _ _ => flagByte_bit _⟩
  | shl x y =>
    exact ⟨_, rfl, .writeFlagged s _ _ x y rfl (decide_eq_true rfl) fun _ _ => and_one_bit _⟩
  | ldI nnn => exact ⟨_, rfl, .ldI nnn⟩
  | jpV0 nnn => exact ⟨_, rfl, .jpV0 nnn⟩
  | rnd x nn => exact ⟨_, rfl, .rnd x nn⟩
  | drw x y n =>
    by_cases h : n = 0 ∨ s.index.toNat + n ≤ 0x1000
    · exact ⟨_, exec_drw_ok x y n s h, .drw x y n h⟩
    · exact ⟨_, exec_drw_error x y n s h, .fatal _⟩
  | skp x =>
    by_cases h : (s.reg[x]).toNat < 16
    · exact ⟨_, exec_skp_ok x s h, .skip _ rfl⟩
    · exact ⟨_, exec_skp_error x s h, .fatal _⟩
  | sknp x =>
    by_cases h : (s.reg[x]).toNat < 16
    · exact ⟨_, exec_sknp_ok x s h, .skip _ rfl⟩
    · exact ⟨_, exec_sknp_error x s h, .fatal _⟩
  | ldVxDt x => exact ⟨_, rfl, .result x _ rfl (decide_eq_true rfl)⟩
  | ldVxK x =>
    simp only [exec, execLdVxK]
    split
    · exact ⟨_, rfl, .result x _ rfl (decide_eq_true rfl)⟩
    · exact ⟨_, rfl, .keyWait x⟩
  | ldDtVx x => exact ⟨_, rfl, .ldDtVx x⟩
  | ldStVx x => exact ⟨_, rfl, .ldStVx x⟩
  | addI x => exact ⟨_, rfl, .addI x⟩
  | ldF x => exact ⟨_, rfl, .ldF x⟩
  | ldB x =>
    by_cases h : s.index.toNat + 3 ≤ 0x1000
    · exact ⟨_, exec_ldB_ok x s h, writeBytes_eq_setMem _ _ s ▸ .ldB x h⟩
    · exact ⟨_, exec_ldB_error x s h, .fatal _⟩
  | stRegs x =>
    by_cases h : s.index.toNat + (x.val + 1) ≤ 0x1000
    · exact ⟨_, exec_stRegs_ok x s h, writeBytes_eq_setMem _ _ s ▸ .stRegs x h⟩
    · exact ⟨_, exec_stRegs_error x s h, .fatal _⟩
  | ldRegs x =>
    by_cases h : s.index.toNat + (x.val + 1) ≤ 0x1000
    · exact ⟨_, exec_ldRegs_ok x s h, .ldRegs x h⟩
    · exact ⟨_, exec_ldRegs_error x s h, .fatal _⟩

/-- The inversion of `exec`: whatever it answers is one of the effects. -/
theorem execEffect_of_exec {i : Instr} {s t : State} (h : exec i s = .next t) : ExecEffect s i t := by
  obtain ⟨u, hu, he⟩ := exists_execEffect i s
  cases hu.symm.trans h
  exact he

/-! ## What the effects leave unchanged -/

variable {i : Instr} {s t : State}

theorem ExecEffect.key_eq (h : ExecEffect s i t) : t.key = s.key := by
  cases h <;> simp

theorem ExecEffect.params_eq (h : ExecEffect s i t) : t.params = s.params := by
  cases h <;> simp

theorem ExecEffect.random_eq_or_rnd (h : ExecEffect s i t) :
    (t.randomIn = s.randomIn ∧ t.randomDraws = s.randomDraws) ∨ ∃ x nn, i = .rnd x nn := by
  cases h with
  | rnd x nn => exact .inr ⟨x, nn, rfl⟩
  | _ => exact .inl (by simp)

theorem ExecEffect.stack_eq_or_call (h : ExecEffect s i t) : t.stack = s.stack ∨ ∃ nnn, i = .call nnn := by
  cases h with
  | call nnn => exact .inr ⟨nnn, rfl⟩
  | _ => exact .inl (by simp)

theorem ExecEffect.sp_eq_or_ret_or_call (h : ExecEffect s i t) :
    t.sp = s.sp ∨ i = .ret ∨ ∃ nnn, i = .call nnn := by
  cases h with
  | ret => exact .inr (.inl rfl)
  | call nnn => exact .inr (.inr ⟨nnn, rfl⟩)
  | _ => exact .inl (by simp)

end Sys2Proof.Proofs
end

section
/-! The cycle around the effect: the cases of one step in the terms of the claims, and how a fact about effects becomes one
about steps. -/

namespace Sys2Proof.Proofs

open Sys2Proof Sys2Proof.Machine Sys2Proof.Claims

/-- The big-endian word as a number (20_memory.md R55). -/
theorem wordOfBytes_eq_ofNat (b0 b1 : Byte) :
    wordOfBytes b0 b1 = BitVec.ofNat 16 (b0.toNat * 256 + b1.toNat) := by
  apply BitVec.eq_of_toNat_eq
  have h : (wordOfBytes b0 b1).toNat = b0.toNat * 256 + b1.toNat := toNat_append_eq b0 b1
  rw [h, BitVec.toNat_ofNat, Nat.mod_eq_of_lt (by omega)]

/-- A fetch that succeeds reads the word at `pc`, and `pc + 1` is inside memory. -/
theorem fetch_eq_ok {s : State} {w : Word} (h : fetch s = .ok w) : s.pc.toNat + 1 ≤ 0xFFF ∧ w = wordAtPc s := by
  by_cases hpc : s.pc.toNat < 0xFFF
  · rw [fetch_ok s hpc] at h
    cases h
    exact ⟨hpc, wordOfBytes_eq_ofNat _ _⟩
  · rw [fetch_error s hpc] at h
    cases h

variable {s t : State}

/-- One step: nothing happened (the core is halted), or a fatal condition was taken before any instruction ran, or an
instruction ran and had its effect, with or without the tick. -/
theorem step_cases_runs (h : step s = .next t) :
    t = s ∨ (∃ w f, t = (s.setOpcode w).raiseFatal f) ∨
    ∃ i u, Runs s i ∧ ExecEffect (s.setOpcode (wordAtPc s)) i u ∧ (t = u ∨ t = timerTick u) := by
  obtain ⟨-, rfl⟩ | ⟨-, f, -, rfl⟩ | ⟨-, w, e, -, -, rfl⟩ | ⟨hrun, w, i, u, hfetch, hdec, hexec, hend⟩ := step_cases h
  · exact .inl rfl
  · exact .inr (.inl ⟨s.opcode, f, rfl⟩)
  · exact .inr (.inl ⟨w, _, rfl⟩)
  · obtain ⟨hpc, rfl⟩ := fetch_eq_ok hfetch
    exact .inr (.inr ⟨i, u, ⟨hrun, hpc, hdec⟩, execEffect_of_exec hexec, hend.imp And.right And.right⟩)

/-- `p` reads no element of the state that a cycle writes outside the execute step: neither `opcode` nor the fault record
nor a timer. -/
structure ExecOnly {α : Type} (p : State → α) : Prop where
  setOpcode (w : Word) (s : State) : p (s.setOpcode w) = p s
  setFault (f : Option FaultRecord) (s : State) : p (s.setFault f) = p s
  timerTick (s : State) : p (timerTick s) = p s

/-- Such an element is as it was, or it is what the effect of the instruction that ran left in it. -/
theorem ExecOnly.step_cases {α : Type} {p : State → α} (hp : ExecOnly p) (h : step s = .next t) :
    p t = p s ∨ ∃ i u, Runs s i ∧ ExecEffect (s.setOpcode (wordAtPc s)) i u ∧ p t = p u := by
  obtain rfl | ⟨w, f, rfl⟩ | ⟨i, u, hrun, he, rfl | rfl⟩ := step_cases_runs h
  · exact .inl rfl
  · exact .inl ((hp.setFault _ _).trans (hp.setOpcode _ _))
  · exact .inr ⟨i, t, hrun, he, rfl⟩
  · exact .inr ⟨i, u, hrun, he, hp.timerTick u⟩

/-- If only the instructions that satisfy `P` can change such an element, then a step changes it only by running one. -/
theorem ExecOnly.runs_of_ne {α : Type} {p : State → α} (hp : ExecOnly p) {P : Instr → Prop}
    (he : ∀ {i : Instr} {s t : State}, ExecEffect s i t → p t = p s ∨ P i) (h : step s = .next t) (hne : p t ≠ p s) :
    ∃ i, Runs s i ∧ P i := by
  obtain heq | ⟨i, u, hrun, hu, htu⟩ := hp.step_cases h
  · exact absurd heq hne
  · obtain heq | hP := he hu
    · exact absurd (htu.trans (heq.trans (hp.setOpcode _ _))) hne
    · exact ⟨i, hrun, hP⟩

/-- An element that no instruction changes is the same after every step. -/
theorem ExecOnly.step_eq {α : Type} {p : State → α} (hp : ExecOnly p)
    (he : ∀ {i : Instr} {s t : State}, ExecEffect s i t → p t = p s) (h : step s = .next t) : p t = p s := by
  by_contra hne
  obtain ⟨_, _, hfalse⟩ := hp.runs_of_ne (P := fun _ => False) (fun hu => .inl (he hu)) h hne
  exact hfalse

end Sys2Proof.Proofs
end

section
/-! The invariant: memory in its canonical form, `pc` at most 0x10FE, stack slots at most 0xFFE (10_state.md R26). -/

namespace Sys2Proof.Proofs

open Sys2Proof Sys2Proof.Machine Sys2Proof.Config Sys2Proof.Claims

theorem resetWith_inv (p : Params) : (State.resetWith p).Inv where
  mem_wf := rfl
  pc_le := by simp [State.resetWith]
  stack_le := by simp [State.resetWith]

/-- Settles O14: the state after reset lists no byte, has `pc` at 0x200 and zeroes in every slot. -/
theorem resetMeetsTheInvariant : Obligations.ResetMeetsTheInvariant :=
  ⟨resetWith_inv, resetWith_inv _⟩

/-! ## The three parts under one effect -/

theorem addrOperand_toNat_le (nnn : BitVec 12) : (addrOperand nnn).toNat ≤ 0xFFF := by
  have h : (addrOperand nnn).toNat = nnn.toNat % 65536 := BitVec.toNat_setWidth ..
  omega

theorem zext16_toNat_le (v : Byte) : (zext16 v).toNat ≤ 0xFF := by
  have h : (zext16 v).toNat = v.toNat % 65536 := BitVec.toNat_setWidth ..
  omega

/-- A sum of words is at most the sum of their bounds, wrapping or not. -/
theorem toNat_add_le {a b : Word} {m n : Nat} (ha : a.toNat ≤ m) (hb : b.toNat ≤ n) : (a + b).toNat ≤ m + n := by
  rw [BitVec.toNat_add]
  exact (Nat.mod_le _ _).trans (Nat.add_le_add ha hb)

variable {i : Instr} {s t : State}

/-- Only the two stores touch memory, and their bytes lie inside it. -/
theorem ExecEffect.mem_wf (h : ExecEffect s i t) (hm : Memory.wf s.params.font s.mem = true) :
    Memory.wf t.params.font t.mem = true := by
  cases h with
  | ldB x hx => exact State.wf_writeBytes _ _ s hx hm
  | stRegs x hx => exact State.wf_writeBytes _ _ s (by simpa [State.dataBase] using hx) hm
  | _ => simpa using hm

/-- From an address that was fetched, with slots that hold such addresses, `pc` goes at most to 0x10FE. The bound is that
of the indexed jump, 0xFFF + 0xFF (40_control_flow.md R108). -/
theorem ExecEffect.pc_le (h : ExecEffect s i t) (hpc : s.pc.toNat ≤ 0xFFE)
    (hs : ∀ (j : Nat) (h : j < 16), (s.stack[j]).toNat ≤ 0xFFE) : t.pc.toNat ≤ 0x10FE := by
  have plus_le (k : Word) (hk : k.toNat ≤ 4) : (s.pc + k).toNat ≤ 0x10FE := by
    have := toNat_add_le hpc hk
    omega
  cases h with
  | fatal f => exact hpc.trans (by decide)
  | keyWait x => exact hpc.trans (by decide)
  | skip c hw =>
    cases c
    · exact plus_le 2 (by decide)
    · exact plus_le 4 (by decide)
  | jp nnn => exact (addrOperand_toNat_le nnn).trans (by decide)
  | call nnn hsp => exact (addrOperand_toNat_le nnn).trans (by decide)
  | jpV0 nnn => exact toNat_add_le (addrOperand_toNat_le nnn) (zext16_toNat_le _)
  | ret hsp =>
    have h2 : (2 : Word).toNat ≤ 2 := le_refl _
    exact (toNat_add_le (hs (s.sp.val - 1) (by omega)) h2).trans (by decide)
  | _ => exact plus_le 2 (by decide)

/-- A call pushes the address it was fetched from; nothing else writes a slot. -/
theorem ExecEffect.stack_le (h : ExecEffect s i t) (hpc : s.pc.toNat ≤ 0xFFE)
    (hs : ∀ (j : Nat) (h : j < 16), (s.stack[j]).toNat ≤ 0xFFE) (j : Nat) (hj : j < 16) :
    (t.stack[j]).toNat ≤ 0xFFE := by
  cases h with
  | call nnn hsp =>
    have hget : (s.stack.set s.sp.val s.pc)[j] = if s.sp.val = j then s.pc else s.stack[j] := Vector.getElem_set ..
    simp only [State.setPc_stack, State.setSp_stack, State.setStack_stack, hget]
    split
    · exact hpc
    · exact hs j hj
  | _ => exact hs j hj

/-- An instruction fetched at `pc` keeps the invariant. -/
theorem ExecEffect.inv (h : ExecEffect s i t) (hpc : s.pc.toNat ≤ 0xFFE) (hs : s.Inv) : t.Inv where
  mem_wf := h.mem_wf hs.mem_wf
  pc_le := h.pc_le hpc hs.stack_le
  stack_le := h.stack_le hpc hs.stack_le

/-- The invariant reads memory, the parameters, `pc` and the slots only. -/
theorem inv_eq_of_same {s t : State} (hm : t.mem = s.mem) (hp : t.params = s.params) (hpc : t.pc = s.pc)
    (hst : t.stack = s.stack) : t.Inv = s.Inv := by
  have mp {a b : State} (hm : b.mem = a.mem) (hp : b.params = a.params) (hpc : b.pc = a.pc) (hst : b.stack = a.stack)
      (h : a.Inv) : b.Inv :=
    ⟨by rw [hm, hp]; exact h.mem_wf, by rw [hpc]; exact h.pc_le, by rw [hst]; exact h.stack_le⟩
  exact propext ⟨mp hm.symm hp.symm hpc.symm hst.symm, mp hm hp hpc hst⟩

theorem execOnly_inv : ExecOnly State.Inv where
  setOpcode _ _ := inv_eq_of_same rfl rfl rfl rfl
  setFault _ _ := inv_eq_of_same rfl rfl rfl rfl
  timerTick _ := inv_eq_of_same rfl rfl rfl rfl

/-- Settles O15: what runs was fetched at `pc` at most 0xFFE, and from there every effect keeps the invariant. -/
theorem stepKeepsTheInvariant : Obligations.StepKeepsTheInvariant := by
  intro s t hs h
  obtain heq | ⟨i, u, ⟨-, hpc, -⟩, he, heq⟩ := execOnly_inv.step_cases h
  · exact heq ▸ hs
  · have hs' : (s.setOpcode (wordAtPc s)).Inv := (execOnly_inv.setOpcode _ _).symm ▸ hs
    exact heq ▸ he.inv (Nat.le_of_succ_le_succ hpc) hs'

end Sys2Proof.Proofs
end

section
/-! The frames of the key state, the model's own fields, the stack and the general registers. -/

namespace Sys2Proof.Proofs

open Sys2Proof Sys2Proof.Machine Sys2Proof.Claims

theorem execOnly_key : ExecOnly State.key := ⟨fun _ _ => rfl, fun _ _ => rfl, fun _ => rfl⟩
theorem execOnly_params : ExecOnly State.params := ⟨fun _ _ => rfl, fun _ _ => rfl, fun _ => rfl⟩
theorem execOnly_randomIn : ExecOnly State.randomIn := ⟨fun _ _ => rfl, fun _ _ => rfl, fun _ => rfl⟩
theorem execOnly_randomDraws : ExecOnly State.randomDraws := ⟨fun _ _ => rfl, fun _ _ => rfl, fun _ => rfl⟩
theorem execOnly_stack : ExecOnly State.stack := ⟨fun _ _ => rfl, fun _ _ => rfl, fun _ => rfl⟩
theorem execOnly_sp : ExecOnly State.sp := ⟨fun _ _ => rfl, fun _ _ => rfl, fun _ => rfl⟩

/-- Settles O21: no effect touches the keys or the parameters, and only that of `CXNN` the random source. -/
theorem noCycleWritesKeysOrParameters : Obligations.NoCycleWritesKeysOrParameters := by
  intro s t h
  refine ⟨execOnly_key.step_eq (·.key_eq) h, execOnly_params.step_eq (·.params_eq) h, ?_⟩
  have runs_rnd : (∃ i, Runs s i ∧ ∃ x nn, i = .rnd x nn) → ∃ x nn, Runs s (.rnd x nn) := by
    rintro ⟨_, hrun, x, nn, rfl⟩
    exact ⟨x, nn, hrun⟩
  rintro (hne | hne)
  · exact runs_rnd (execOnly_randomIn.runs_of_ne (·.random_eq_or_rnd.imp_left And.left) h hne)
  · exact runs_rnd (execOnly_randomDraws.runs_of_ne (·.random_eq_or_rnd.imp_left And.right) h hne)

/-- Settles O24: of all effects only a call's writes a slot, and only a call's and a return's write `sp`. -/
theorem stackChangesOnlyThroughCallAndReturn : Obligations.StackChangesOnlyThroughCallAndReturn := by
  intro s t h
  constructor
  · intro hne
    obtain ⟨_, hrun, nnn, rfl⟩ := execOnly_stack.runs_of_ne (·.stack_eq_or_call) h hne
    exact ⟨nnn, hrun⟩
  · intro hne
    obtain ⟨_, hrun, rfl | ⟨nnn, rfl⟩⟩ := execOnly_sp.runs_of_ne (·.sp_eq_or_ret_or_call) h hne
    · exact .inl hrun
    · exact .inr ⟨nnn, hrun⟩

/-! ## General registers -/

variable {i : Instr} {s t : State} {x r : RegIdx}

theorem reg_writeReg_same (s : State) (x : RegIdx) (v : Byte) : (s.writeReg x v).reg[x] = v := by
  simp

theorem reg_writeReg_ne (s : State) (v : Byte) (h : r ≠ x) : (s.writeReg x v).reg[r] = s.reg[r] :=
  Vector.getElem_set_ne x.isLt r.isLt fun e => h (Fin.ext e.symm)

/-- A register above those that `FX65` loads keeps its value. -/
theorem getElem_writeRegRange_above (bs : List Byte) (regs : Vector Byte 16) (h : bs.length ≤ r.val) :
    (writeRegRange 0 bs regs)[r] = regs[r] := by
  have hget := getElem_writeRegRange bs 0 regs r.val r.isLt
  rw [if_pos (Nat.zero_le _), Nat.sub_zero, List.getElem?_eq_none h] at hget
  exact hget

theorem ne_of_destination (hr : destination i r = false) (hx : destination i x = true) : r ≠ x := by
  rintro rfl
  exact absurd (hr.symm.trans hx) Bool.false_ne_true

/-- Every effect leaves a register alone that is no destination, and is not register 0xF of a flag writer. -/
theorem ExecEffect.reg_eq (h : ExecEffect s i t) (hr : destination i r = false)
    (hf : flagWriter i = false ∨ r ≠ 15) : t.reg[r] = s.reg[r] := by
  cases h with
  | result x v hw hx => exact reg_writeReg_ne s v (ne_of_destination hr hx)
  | flagged x flag v hw hx hbit =>
    have h15 : r ≠ 15 := hf.resolve_left (by simp [hw])
    exact (reg_writeReg_ne _ v (ne_of_destination hr hx)).trans (reg_writeReg_ne s flag h15)
  | rnd x nn => exact reg_writeReg_ne s.consumeRandom _ (of_decide_eq_false hr)
  | drw x y n hn =>
    have h15 : r ≠ 15 := hf.resolve_left Bool.noConfusion
    exact reg_writeReg_ne s _ h15
  | ldRegs x hx =>
    have hlt : x < r := not_le.mp (of_decide_eq_false hr)
    exact getElem_writeRegRange_above _ s.reg (by simpa using hlt)
  | _ => rfl

/-- A flag writer that completes and whose destination is another register leaves its flag in register 0xF. -/
theorem ExecEffect.flag_bit (h : ExecEffect s i t) (ht : t.fault = none) (hw : flagWriter i = true)
    (h15 : destination i 15 = false) : t.reg[(15 : RegIdx)] = 0 ∨ t.reg[(15 : RegIdx)] = 1 := by
  cases h with
  | fatal f => cases ht
  | flagged x flag v _ hx hbit =>
    have hflag : ((s.writeReg flagReg flag).writeReg x v).reg[(15 : RegIdx)] = flag :=
      (reg_writeReg_ne _ v (ne_of_destination h15 hx)).trans (reg_writeReg_same s flagReg flag)
    exact hflag.symm ▸ hbit
  | drw x y n hn =>
    have hflag := reg_writeReg_same s flagReg (collisionFlag (s.drawn x y n).2)
    exact hflag.symm ▸ flagByte_bit _
  | skip c hw' => exact absurd (hw'.symm.trans hw) Bool.false_ne_true
  | result x v hw' hx => exact absurd (hw'.symm.trans hw) Bool.false_ne_true
  | _ => cases hw

/-- Settles O27: the frame of every effect on the registers. -/
theorem onlyDestinationRegistersChange : Obligations.OnlyDestinationRegistersChange :=
  fun _ _ _ _ h hr hf => (execEffect_of_exec h).reg_eq hr hf

/-- Settles O26: the first clause is the register frame at 0xF, the second what the six flag writers leave there. -/
theorem flagRegisterHasExactlySixImplicitWriters : Obligations.FlagRegisterHasExactlySixImplicitWriters :=
  ⟨fun _ _ _ h hw h15 => (execEffect_of_exec h).reg_eq h15 (.inl hw),
    fun _ _ _ h _ ht hw h15 => (execEffect_of_exec h).flag_bit ht hw h15⟩

end Sys2Proof.Proofs
end

section
/-! Memory: what it reads determines a memory in canonical form; the checked accesses; code as memory; which bytes a cycle
can change. -/

namespace Sys2Proof.Proofs

open Sys2Proof Sys2Proof.Machine Sys2Proof.Config Sys2Proof.Claims

/-! ## The sparse form -/

section
variable {font : Font} {m : Memory} {a lo : Nat} {v : Byte} {c : Host.Cell}

theorem lookup_cons_self (c : Host.Cell) (m : Memory) : Memory.lookup (c :: m) c.1 = some c.2 := if_pos rfl

theorem lookup_cons_ne (h : a ≠ c.1) : Memory.lookup (c :: m) a = Memory.lookup m a := if_neg h

theorem lookup_eq_none_of_above (h : Memory.Above lo m) (ha : a ≤ lo) : Memory.lookup m a = none := by
  induction m with
  | nil => rfl
  | cons c rest ih =>
    obtain ⟨hc, hrest⟩ := List.forall_mem_cons.1 h
    rw [lookup_cons_ne (by omega)]
    exact ih hrest

/-- The first entry of a memory in canonical form is that of the lowest listed address. -/
theorem head_le_of_lookup (hm : Memory.wf font (c :: m) = true) (h : Memory.lookup (c :: m) a = some v) : c.1 ≤ a := by
  obtain ⟨-, -, habove, -⟩ := Memory.wf_cons_iff.1 hm
  by_contra hlt
  have hnone : Memory.lookup (c :: m) a = none := by
    rw [lookup_cons_ne (by omega)]
    exact lookup_eq_none_of_above habove (by omega)
  cases hnone.symm.trans h

/-- Two memories in canonical form that list every address alike are equal: their first entries are both that of the lowest
listed address, and what follows lists every address alike again. -/
theorem eq_of_lookup_eq {m₁ m₂ : Memory} (h₁ : Memory.wf font m₁ = true) (h₂ : Memory.wf font m₂ = true)
    (h : ∀ a, Memory.lookup m₁ a = Memory.lookup m₂ a) : m₁ = m₂ := by
  induction m₁ generalizing m₂ with
  | nil =>
    cases m₂ with
    | nil => rfl
    | cons d n => cases (h d.1).trans (lookup_cons_self d n)
  | cons c m ih =>
    cases m₂ with
    | nil => cases (h c.1).symm.trans (lookup_cons_self c m)
    | cons d n =>
      have haddr : c.1 = d.1 := le_antisymm
        (head_le_of_lookup h₁ ((h d.1).trans (lookup_cons_self d n)))
        (head_le_of_lookup h₂ ((h c.1).symm.trans (lookup_cons_self c m)))
      have hbyte : c.2 = d.2 := Option.some.inj <|
        calc some c.2 = Memory.lookup (d :: n) c.1 := (lookup_cons_self c m).symm.trans (h c.1)
          _ = some d.2 := haddr ▸ lookup_cons_self d n
      obtain ⟨-, -, hc, hm⟩ := Memory.wf_cons_iff.1 h₁
      obtain ⟨-, -, hd, hn⟩ := Memory.wf_cons_iff.1 h₂
      have hrest (a : Nat) : Memory.lookup m a = Memory.lookup n a := by
        by_cases ha : a = c.1
        · rw [lookup_eq_none_of_above hc ha.le, lookup_eq_none_of_above hd (ha.trans haddr).le]
        · rw [← lookup_cons_ne ha, h a, lookup_cons_ne (haddr ▸ ha)]
      rw [Prod.ext haddr hbyte, ih hm hn hrest]

end

/-- Settles O17: memories that read alike list every address alike, and the list is in one order only. -/
theorem memoriesThatReadAlikeAreEqual : Obligations.MemoriesThatReadAlikeAreEqual :=
  fun _ _ _ h₁ h₂ h => eq_of_lookup_eq h₁ h₂ fun a => Memory.lookup_eq_of_read_eq h₁ h₂ (h a)

/-! ## Checked accesses -/

variable {s t : State} {a : Nat}

theorem memRead_ok (s : State) (h : a ≤ 0xFFF) : memRead s a = .ok (s.readByte a) := if_neg (by omega)

theorem memRead_error (s : State) (h : a > 0xFFF) : memRead s a = .error ⟨.memOutOfRange, a⟩ := if_pos h

theorem memWrite_ok (s : State) (v : Byte) (h : a ≤ 0xFFF) : memWrite s a v = .ok (s.writeByte a v) :=
  if_neg (by omega)

theorem memWrite_error (s : State) (v : Byte) (h : a > 0xFFF) : memWrite s a v = .error ⟨.memOutOfRange, a⟩ := if_pos h

theorem readByte_writeByte_same (s : State) (a : Nat) (v : Byte) : (s.writeByte a v).readByte a = v := by
  rw [State.readByte_writeByte, if_pos rfl]

theorem readByte_writeByte_ne {b : Nat} (s : State) (v : Byte) (h : b ≠ a) :
    (s.writeByte a v).readByte b = s.readByte b := by
  rw [State.readByte_writeByte, if_neg h]

/-- Settles O18: the two sides of the bound, and the frame of a byte write. -/
theorem accessAboveFFFIsFatal : Obligations.AccessAboveFFFIsFatal := fun s a v =>
  ⟨fun h => ⟨memRead_error s h, memWrite_error s v h⟩,
    fun h => ⟨memRead_ok s h, s.writeByte a v, memWrite_ok s v h, readByte_writeByte_same s a v,
      fun _ hb => readByte_writeByte_ne s v hb, State.writeByte_eq s a v⟩⟩

/-- A fetch inside memory reads the two bytes at `pc` as one big-endian word. -/
theorem fetch_of_bytes {b0 b1 : Byte} (hpc : s.pc.toNat + 1 ≤ 0xFFF) (h0 : s.readByte s.pc.toNat = b0)
    (h1 : s.readByte (s.pc.toNat + 1) = b1) : fetch s = .ok (BitVec.ofNat 16 (b0.toNat * 256 + b1.toNat)) := by
  rw [fetch_ok s hpc, h0, h1, wordOfBytes_eq_ofNat]

/-- Settles O20: the second write leaves the byte at `pc` alone, and neither moves `pc`. -/
theorem storedBytesAreFetched : Obligations.StoredBytesAreFetched := by
  intro s b0 b1 hpc
  have hlow : ((s.writeByte s.pc.toNat b0).writeByte (s.pc.toNat + 1) b1).readByte s.pc.toNat = b0 :=
    (readByte_writeByte_ne _ b1 (by omega)).trans (readByte_writeByte_same s s.pc.toNat b0)
  exact fetch_of_bytes hpc hlow (readByte_writeByte_same _ _ b1)

/-! ## Which bytes a cycle can change -/

theorem readByte_advance (s : State) (a : Nat) : s.advance.readByte a = s.readByte a := rfl

/-- A block write changes no byte outside the block. -/
theorem mem_block_of_readByte_ne {base : Nat} {bs : List Byte}
    (h : (s.setMem (State.writeBytes base bs s).mem).readByte a ≠ s.readByte a) :
    base ≤ a ∧ a < base + bs.length := by
  rw [← writeBytes_eq_setMem, State.readByte_writeBytes] at h
  by_contra hout
  refine h ?_
  split
  · rw [List.getElem?_eq_none (by omega), Option.getD_none]
  · rfl

/-- Of all effects only those of `FX33` and `FX55` change a byte of memory, and it lies in the block they store to. -/
theorem ExecEffect.store_of_readByte_ne {i : Instr} (h : ExecEffect s i t) (hne : t.readByte a ≠ s.readByte a) :
    s.index.toNat ≤ a ∧
      ((∃ x, i = .ldB x ∧ a ≤ s.index.toNat + 2) ∨ (∃ x, i = .stRegs x ∧ a ≤ s.index.toNat + x.val)) := by
  cases h with
  | ldB x hx =>
    rw [readByte_advance] at hne
    obtain ⟨hlo, hhi⟩ := mem_block_of_readByte_ne hne
    exact ⟨hlo, .inl ⟨x, rfl, Nat.le_of_lt_succ hhi⟩⟩
  | stRegs x hx =>
    rw [readByte_advance] at hne
    obtain ⟨hlo, hhi⟩ := mem_block_of_readByte_ne hne
    rw [State.length_regRange] at hhi
    exact ⟨hlo, .inr ⟨x, rfl, Nat.le_of_lt_succ hhi⟩⟩
  | _ => exact absurd rfl hne

theorem execOnly_readByte (a : Nat) : ExecOnly (·.readByte a) := ⟨fun _ _ => rfl, fun _ _ => rfl, fun _ => rfl⟩

/-- Settles O23: a byte changes only in the execute step, and of all effects only the two stores change one. -/
theorem memoryChangesOnlyThroughStores : Obligations.MemoryChangesOnlyThroughStores := by
  intro s t a h hne
  obtain heq | ⟨i, u, hrun, hu, htu⟩ := (execOnly_readByte a).step_cases h
  · exact absurd heq hne
  · exact ⟨i, hrun, hu.store_of_readByte_ne (a := a) fun heq => hne (htu.trans heq)⟩

end Sys2Proof.Proofs
end

section
/-! The encoding: decode and encode are inverse to each other, every row of the opcode table decodes to its own instruction,
and the words that no row takes. -/

namespace Sys2Proof.Proofs

open Sys2Proof Sys2Proof.Claims

/-! ## The fields of each format, one at a time -/

section
variable (op : BitVec 4) (x y : RegIdx)

@[simp] theorem fieldOp_formatFA (nnn : BitVec 12) : (fieldOp (formatFA op nnn)).val = op.toNat :=
  (fields_formatFA op nnn).1
@[simp] theorem fieldNNN_formatFA (nnn : BitVec 12) : fieldNNN (formatFA op nnn) = nnn :=
  (fields_formatFA op nnn).2
@[simp] theorem fieldOp_formatFI (nn : Byte) : (fieldOp (formatFI op x nn)).val = op.toNat :=
  (fields_formatFI op x nn).1
@[simp] theorem fieldX_formatFI (nn : Byte) : fieldX (formatFI op x nn) = x :=
  (fields_formatFI op x nn).2.1
@[simp] theorem fieldNN_formatFI (nn : Byte) : fieldNN (formatFI op x nn) = nn :=
  (fields_formatFI op x nn).2.2
@[simp] theorem fieldOp_formatFR (n : BitVec 4) : (fieldOp (formatFR op x y n)).val = op.toNat :=
  (fields_formatFR op x y n).1
@[simp] theorem fieldX_formatFR (n : BitVec 4) : fieldX (formatFR op x y n) = x :=
  (fields_formatFR op x y n).2.1
@[simp] theorem fieldY_formatFR (n : BitVec 4) : fieldY (formatFR op x y n) = y :=
  (fields_formatFR op x y n).2.2.1
@[simp] theorem fieldN_formatFR (n : BitVec 4) : fieldN (formatFR op x y n) = n.toNat :=
  (fields_formatFR op x y n).2.2.2
@[simp] theorem fieldOp_formatFK (fn : Byte) : (fieldOp (formatFK op x fn)).val = op.toNat :=
  (fields_formatFK op x fn).1
@[simp] theorem fieldX_formatFK (fn : Byte) : fieldX (formatFK op x fn) = x :=
  (fields_formatFK op x fn).2.1
@[simp] theorem fieldNN_formatFK (fn : Byte) : fieldNN (formatFK op x fn) = fn :=
  (fields_formatFK op x fn).2.2

end

/-! ## Decode after encode -/

/-- The decoder reads back every operand of a well-formed instruction: the first level sees its `op`, the second level its
function nibble or byte, and the sprite height fits the field N. -/
theorem decodeWord_encode {i : Instr} (hi : i.wf = true) : decodeWord (encode i) = .ok i := by
  cases i with
  | cls | ret => rfl
  | jp | call | ldI | jpV0 => simp [encode, decodeWord]
  | seImm | sneImm | ldImm | addImm | rnd => simp [encode, decodeWord]
  | seReg => simp [encode, decodeWord, decodeOp5]
  | sneReg => simp [encode, decodeWord, decodeOp9]
  | ldReg | orReg | andReg | xorReg | addReg | subReg | shr | subnReg | shl => simp [encode, decodeWord, decodeOp8]
  | drw x y n =>
    have hn : n < 16 := of_decide_eq_true hi
    simp [encode, decodeWord, Nat.mod_eq_of_lt hn]
  | skp | sknp => simp [encode, decodeWord, decodeOpE]
  | ldVxDt | ldVxK | ldDtVx | ldStVx | addI | ldF | ldB | stRegs | ldRegs => simp [encode, decodeWord, decodeOpF]

/-- Settles O2: the bytes of a word decode as the word does, and the word of an instruction as the instruction. -/
theorem decodeOfEncodeIsTheInstruction : Obligations.DecodeOfEncodeIsTheInstruction := by
  intro i rest hi
  rw [encodeBytes, decode_bytesOfWord, decodeWord_encode hi]

/-! ## A word is made of its fields -/

section
variable {w : Word} {op : BitVec 4}

theorem formatFA_fields (hop : (fieldOp w).val = op.toNat) : formatFA op (fieldNNN w) = w := by
  apply BitVec.eq_of_toNat_eq
  rw [formatFA_toNat, fieldNNN_toNat, ← hop, fieldOp_val]
  omega

theorem formatFI_fields (hop : (fieldOp w).val = op.toNat) : formatFI op (fieldX w) (fieldNN w) = w := by
  apply BitVec.eq_of_toNat_eq
  rw [formatFI_toNat, fieldX_val, fieldNN_toNat, ← hop, fieldOp_val]
  omega

theorem formatFR_fields {n : BitVec 4} (hop : (fieldOp w).val = op.toNat) (hn : fieldN w = n.toNat) :
    formatFR op (fieldX w) (fieldY w) n = w := by
  apply BitVec.eq_of_toNat_eq
  rw [formatFR_toNat, fieldX_val, fieldY_val, ← hn, fieldN_eq, ← hop, fieldOp_val]
  omega

theorem formatFK_fields {fn : Byte} (hop : (fieldOp w).val = op.toNat) (hfn : fieldNN w = fn) :
    formatFK op (fieldX w) fn = w := by
  subst hfn
  exact formatFI_fields hop

end

/-! ## Encode after decode -/

theorem fieldN_lt (w : Word) : fieldN w < 16 := by
  rw [fieldN_eq]
  exact Nat.mod_lt _ (by decide)

section
variable {w : Word} {i : Instr}

theorem encode_of_decodeOp0 (h : decodeOp0 w = .ok i) : i.wf = true ∧ encode i = w := by
  unfold decodeOp0 at h
  split at h
  · next hw => cases h; exact ⟨rfl, hw.symm⟩
  · split at h
    · next hw => cases h; exact ⟨rfl, hw.symm⟩
    · cases h

theorem encode_of_decodeOp5 (hop : (fieldOp w).val = 0x5) (h : decodeOp5 w = .ok i) :
    i.wf = true ∧ encode i = w := by
  unfold decodeOp5 at h
  split at h
  · next hn => cases h; exact ⟨rfl, formatFR_fields hop hn⟩
  · cases h

theorem encode_of_decodeOp8 (hop : (fieldOp w).val = 0x8) (h : decodeOp8 w = .ok i) :
    i.wf = true ∧ encode i = w := by
  unfold decodeOp8 at h
  split at h <;> cases h
  all_goals next hn => exact ⟨rfl, formatFR_fields hop hn⟩

theorem encode_of_decodeOp9 (hop : (fieldOp w).val = 0x9) (h : decodeOp9 w = .ok i) :
    i.wf = true ∧ encode i = w := by
  unfold decodeOp9 at h
  split at h
  · next hn => cases h; exact ⟨rfl, formatFR_fields hop hn⟩
  · cases h

theorem encode_of_decodeOpE (hop : (fieldOp w).val = 0xE) (h : decodeOpE w = .ok i) :
    i.wf = true ∧ encode i = w := by
  unfold decodeOpE at h
  split at h
  · next hfn => cases h; exact ⟨rfl, formatFK_fields hop hfn⟩
  · split at h
    · next hfn => cases h; exact ⟨rfl, formatFK_fields hop hfn⟩
    · cases h

theorem encode_of_decodeOpF (hop : (fieldOp w).val = 0xF) (h : decodeOpF w = .ok i) :
    i.wf = true ∧ encode i = w := by
  unfold decodeOpF at h
  split at h <;> cases h
  all_goals next hfn => exact ⟨rfl, formatFK_fields hop (BitVec.eq_of_toNat_eq hfn)⟩

/-- A decoded word is the word of the instruction, branch by branch of the decode tree. -/
theorem encode_of_decodeWord (h : decodeWord w = .ok i) : i.wf = true ∧ encode i = w := by
  unfold decodeWord at h
  split at h
  case h_1 => exact encode_of_decodeOp0 h
  case h_6 hop => exact encode_of_decodeOp5 hop h
  case h_9 hop => exact encode_of_decodeOp8 hop h
  case h_10 hop => exact encode_of_decodeOp9 hop h
  case h_15 hop => exact encode_of_decodeOpE hop h
  case h_16 =>
    have hop : (fieldOp w).val = 0xF := by
      simp only [imp_false] at *
      omega
    exact encode_of_decodeOpF hop h
  case h_14 hop => cases h; exact ⟨decide_eq_true (fieldN_lt w), formatFR_fields hop (by simp [fieldN])⟩
  case h_2 hop | h_3 hop | h_11 hop | h_12 hop => cases h; exact ⟨rfl, formatFA_fields hop⟩
  case h_4 hop | h_5 hop | h_7 hop | h_8 hop | h_13 hop => cases h; exact ⟨rfl, formatFI_fields hop⟩

end

/-- Settles O3: a word is made of its fields, and the decoder reads those. -/
theorem encodeOfDecodeIsTheWord : Obligations.EncodeOfDecodeIsTheWord := fun _ _ => encode_of_decodeWord

end Sys2Proof.Proofs
end

section
/-! Every row of the opcode table decodes to its own instruction, with the operands read as 30_encoding.md R71 writes them. -/

namespace Sys2Proof.Proofs

open Sys2Proof Sys2Proof.Claims

/-! ## The fields as 30_encoding.md R71 writes them -/

theorem fieldX_eq_opX (w : Word) : fieldX w = opX w := Fin.ext (fieldX_val w)

theorem fieldY_eq_opY (w : Word) : fieldY w = opY w := Fin.ext (fieldY_val w)

theorem fieldN_eq_opN (w : Word) : fieldN w = opN w := fieldN_eq w

theorem fieldNN_eq_opNN (w : Word) : fieldNN w = opNN w := BitVec.eq_of_toNat_eq (fieldNN_toNat w)

theorem fieldNNN_eq_opNNN (w : Word) : fieldNNN w = opNNN w := BitVec.eq_of_toNat_eq (fieldNNN_toNat w)

/-! ## The rows of one format -/

section
variable {value : Word} {op : BitVec 4}

/-- A row whose words are the words of the well-formed instructions `f` makes of them decodes to those instructions. -/
theorem rowDecodes_of_encode {mask : Word} {f : Word → Instr}
    (h : ∀ w, w &&& mask = value → (f w).wf = true ∧ encode (f w) = w) : RowDecodes mask value f := by
  intro w hw
  obtain ⟨hwf, henc⟩ := h w hw
  calc decodeWord w = decodeWord (encode (f w)) := by rw [henc]
    _ = .ok (f w) := decodeWord_encode hwf

theorem rowDecodes_word {i : Instr} (hwf : i.wf = true) (henc : encode i = value) :
    RowDecodes 0xFFFF value fun _ => i :=
  rowDecodes_of_encode fun w hw => ⟨hwf, henc.trans (hw.symm.trans (and_FFFF w))⟩

theorem rowDecodes_formatFA (f : BitVec 12 → Instr) (hwf : ∀ nnn, (f nnn).wf = true)
    (henc : ∀ nnn, encode (f nnn) = formatFA op nnn) (hop : value.toNat / 4096 = op.toNat) :
    RowDecodes 0xF000 value fun w => f (opNNN w) :=
  rowDecodes_of_encode fun w hw => by
    rw [henc, ← fieldNNN_eq_opNNN]
    exact ⟨hwf _, formatFA_fields ((mask_F000 hw).trans hop)⟩

theorem rowDecodes_formatFI (f : RegIdx → Byte → Instr) (hwf : ∀ x nn, (f x nn).wf = true)
    (henc : ∀ x nn, encode (f x nn) = formatFI op x nn) (hop : value.toNat / 4096 = op.toNat) :
    RowDecodes 0xF000 value fun w => f (opX w) (opNN w) :=
  rowDecodes_of_encode fun w hw => by
    rw [henc, ← fieldX_eq_opX, ← fieldNN_eq_opNN]
    exact ⟨hwf _ _, formatFI_fields ((mask_F000 hw).trans hop)⟩

theorem rowDecodes_formatFR (f : RegIdx → RegIdx → Instr) {n : BitVec 4} (hwf : ∀ x y, (f x y).wf = true)
    (henc : ∀ x y, encode (f x y) = formatFR op x y n) (hop : value.toNat / 4096 = op.toNat)
    (hn : value.toNat % 16 = n.toNat) : RowDecodes 0xF00F value fun w => f (opX w) (opY w) :=
  rowDecodes_of_encode fun w hw => by
    obtain ⟨hwop, hwn⟩ := mask_F00F hw
    rw [henc, ← fieldX_eq_opX, ← fieldY_eq_opY]
    exact ⟨hwf _ _, formatFR_fields (hwop.trans hop) (hwn.trans hn)⟩

theorem rowDecodes_formatFK (f : RegIdx → Instr) {fn : Byte} (hwf : ∀ x, (f x).wf = true)
    (henc : ∀ x, encode (f x) = formatFK op x fn) (hop : value.toNat / 4096 = op.toNat)
    (hfn : value.toNat % 256 = fn.toNat) : RowDecodes 0xF0FF value fun w => f (opX w) :=
  rowDecodes_of_encode fun w hw => by
    obtain ⟨hwop, hwfn⟩ := mask_F0FF hw
    rw [henc, ← fieldX_eq_opX]
    exact ⟨hwf _, formatFK_fields (hwop.trans hop) (BitVec.eq_of_toNat_eq (hwfn.trans hfn))⟩

end

/-! ## The 34 rows -/

theorem rowDecodes_cls : RowDecodes 0xFFFF 0x00E0 (fun _ => .cls) := rowDecodes_word rfl rfl
theorem rowDecodes_ret : RowDecodes 0xFFFF 0x00EE (fun _ => .ret) := rowDecodes_word rfl rfl
theorem rowDecodes_jp : RowDecodes 0xF000 0x1000 (fun w => .jp (opNNN w)) :=
  rowDecodes_formatFA .jp (fun _ => rfl) (fun _ => rfl) rfl
theorem rowDecodes_call : RowDecodes 0xF000 0x2000 (fun w => .call (opNNN w)) :=
  rowDecodes_formatFA .call (fun _ => rfl) (fun _ => rfl) rfl
theorem rowDecodes_ldI : RowDecodes 0xF000 0xA000 (fun w => .ldI (opNNN w)) :=
  rowDecodes_formatFA .ldI (fun _ => rfl) (fun _ => rfl) rfl
theorem rowDecodes_jpV0 : RowDecodes 0xF000 0xB000 (fun w => .jpV0 (opNNN w)) :=
  rowDecodes_formatFA .jpV0 (fun _ => rfl) (fun _ => rfl) rfl
theorem rowDecodes_seImm : RowDecodes 0xF000 0x3000 (fun w => .seImm (opX w) (opNN w)) :=
  rowDecodes_formatFI .seImm (fun _ _ => rfl) (fun _ _ => rfl) rfl
theorem rowDecodes_sneImm : RowDecodes 0xF000 0x4000 (fun w => .sneImm (opX w) (opNN w)) :=
  rowDecodes_formatFI .sneImm (fun _ _ => rfl) (fun _ _ => rfl) rfl
theorem rowDecodes_ldImm : RowDecodes 0xF000 0x6000 (fun w => .ldImm (opX w) (opNN w)) :=
  rowDecodes_formatFI .ldImm (fun _ _ => rfl) (fun _ _ => rfl) rfl
theorem rowDecodes_addImm : RowDecodes 0xF000 0x7000 (fun w => .addImm (opX w) (opNN w)) :=
  rowDecodes_formatFI .addImm (fun _ _ => rfl) (fun _ _ => rfl) rfl
theorem rowDecodes_rnd : RowDecodes 0xF000 0xC000 (fun w => .rnd (opX w) (opNN w)) :=
  rowDecodes_formatFI .rnd (fun _ _ => rfl) (fun _ _ => rfl) rfl
theorem rowDecodes_seReg : RowDecodes 0xF00F 0x5000 (fun w => .seReg (opX w) (opY w)) :=
  rowDecodes_formatFR .seReg (fun _ _ => rfl) (fun _ _ => rfl) rfl rfl
theorem rowDecodes_ldReg : RowDecodes 0xF00F 0x8000 (fun w => .ldReg (opX w) (opY w)) :=
  rowDecodes_formatFR .ldReg (fun _ _ => rfl) (fun _ _ => rfl) rfl rfl
theorem rowDecodes_orReg : RowDecodes 0xF00F 0x8001 (fun w => .orReg (opX w) (opY w)) :=
  rowDecodes_formatFR .orReg (fun _ _ => rfl) (fun _ _ => rfl) rfl rfl
theorem rowDecodes_andReg : RowDecodes 0xF00F 0x8002 (fun w => .andReg (opX w) (opY w)) :=
  rowDecodes_formatFR .andReg (fun _ _ => rfl) (fun _ _ => rfl) rfl rfl
theorem rowDecodes_xorReg : RowDecodes 0xF00F 0x8003 (fun w => .xorReg (opX w) (opY w)) :=
  rowDecodes_formatFR .xorReg (fun _ _ => rfl) (fun _ _ => rfl) rfl rfl
theorem rowDecodes_addReg : RowDecodes 0xF00F 0x8004 (fun w => .addReg (opX w) (opY w)) :=
  rowDecodes_formatFR .addReg (fun _ _ => rfl) (fun _ _ => rfl) rfl rfl
theorem rowDecodes_subReg : RowDecodes 0xF00F 0x8005 (fun w => .subReg (opX w) (opY w)) :=
  rowDecodes_formatFR .subReg (fun _ _ => rfl) (fun _ _ => rfl) rfl rfl
theorem rowDecodes_shr : RowDecodes 0xF00F 0x8006 (fun w => .shr (opX w) (opY w)) :=
  rowDecodes_formatFR .shr (fun _ _ => rfl) (fun _ _ => rfl) rfl rfl
theorem rowDecodes_subnReg : RowDecodes 0xF00F 0x8007 (fun w => .subnReg (opX w) (opY w)) :=
  rowDecodes_formatFR .subnReg (fun _ _ => rfl) (fun _ _ => rfl) rfl rfl
theorem rowDecodes_shl : RowDecodes 0xF00F 0x800E (fun w => .shl (opX w) (opY w)) :=
  rowDecodes_formatFR .shl (fun _ _ => rfl) (fun _ _ => rfl) rfl rfl
theorem rowDecodes_sneReg : RowDecodes 0xF00F 0x9000 (fun w => .sneReg (opX w) (opY w)) :=
  rowDecodes_formatFR .sneReg (fun _ _ => rfl) (fun _ _ => rfl) rfl rfl
/-- The row of `DXYN` fixes `op` only: all of its fields are operands. -/
theorem rowDecodes_drw : RowDecodes 0xF000 0xD000 (fun w => .drw (opX w) (opY w) (opN w)) :=
  rowDecodes_of_encode fun w hw => by
    rw [← fieldX_eq_opX, ← fieldY_eq_opY, ← fieldN_eq_opN]
    exact ⟨decide_eq_true (fieldN_lt w), formatFR_fields (mask_F000 hw) (Nat.mod_eq_of_lt (fieldN_lt w)).symm⟩
theorem rowDecodes_skp : RowDecodes 0xF0FF 0xE09E (fun w => .skp (opX w)) :=
  rowDecodes_formatFK .skp (fun _ => rfl) (fun _ => rfl) rfl rfl
theorem rowDecodes_sknp : RowDecodes 0xF0FF 0xE0A1 (fun w => .sknp (opX w)) :=
  rowDecodes_formatFK .sknp (fun _ => rfl) (fun _ => rfl) rfl rfl
theorem rowDecodes_ldVxDt : RowDecodes 0xF0FF 0xF007 (fun w => .ldVxDt (opX w)) :=
  rowDecodes_formatFK .ldVxDt (fun _ => rfl) (fun _ => rfl) rfl rfl
theorem rowDecodes_ldVxK : RowDecodes 0xF0FF 0xF00A (fun w => .ldVxK (opX w)) :=
  rowDecodes_formatFK .ldVxK (fun _ => rfl) (fun _ => rfl) rfl rfl
theorem rowDecodes_ldDtVx : RowDecodes 0xF0FF 0xF015 (fun w => .ldDtVx (opX w)) :=
  rowDecodes_formatFK .ldDtVx (fun _ => rfl) (fun _ => rfl) rfl rfl
theorem rowDecodes_ldStVx : RowDecodes 0xF0FF 0xF018 (fun w => .ldStVx (opX w)) :=
  rowDecodes_formatFK .ldStVx (fun _ => rfl) (fun _ => rfl) rfl rfl
theorem rowDecodes_addI : RowDecodes 0xF0FF 0xF01E (fun w => .addI (opX w)) :=
  rowDecodes_formatFK .addI (fun _ => rfl) (fun _ => rfl) rfl rfl
theorem rowDecodes_ldF : RowDecodes 0xF0FF 0xF029 (fun w => .ldF (opX w)) :=
  rowDecodes_formatFK .ldF (fun _ => rfl) (fun _ => rfl) rfl rfl
theorem rowDecodes_ldB : RowDecodes 0xF0FF 0xF033 (fun w => .ldB (opX w)) :=
  rowDecodes_formatFK .ldB (fun _ => rfl) (fun _ => rfl) rfl rfl
theorem rowDecodes_stRegs : RowDecodes 0xF0FF 0xF055 (fun w => .stRegs (opX w)) :=
  rowDecodes_formatFK .stRegs (fun _ => rfl) (fun _ => rfl) rfl rfl
theorem rowDecodes_ldRegs : RowDecodes 0xF0FF 0xF065 (fun w => .ldRegs (opX w)) :=
  rowDecodes_formatFK .ldRegs (fun _ => rfl) (fun _ => rfl) rfl rfl

/-! ## The rows as the table lists them -/

/-- Every word that satisfies the row decodes to an instruction of the row's pattern. -/
def DecodesToItsPattern (r : OpcodeRow) : Prop :=
  ∀ w : Word, r.matchesWord w = true → ∃ i : Instr, decodeWord w = .ok i ∧ i.pattern = r.pattern

theorem DecodesToItsPattern.of_row {r : OpcodeRow} {f : Word → Instr} (h : RowDecodes r.mask r.value f)
    (hp : ∀ w, (f w).pattern = r.pattern) : DecodesToItsPattern r :=
  fun w hw => ⟨f w, h w (of_decide_eq_true hw), hp w⟩

theorem decodesToItsPattern_of_mem_low : ∀ r ∈ opcodeTableLow, DecodesToItsPattern r := by
  simp only [opcodeTableLow, List.forall_mem_cons]
  exact ⟨.of_row rowDecodes_cls fun _ => rfl,
    .of_row rowDecodes_ret fun _ => rfl,
    .of_row rowDecodes_jp fun _ => rfl,
    .of_row rowDecodes_call fun _ => rfl,
    .of_row rowDecodes_seImm fun _ => rfl,
    .of_row rowDecodes_sneImm fun _ => rfl,
    .of_row rowDecodes_seReg fun _ => rfl,
    .of_row rowDecodes_ldImm fun _ => rfl,
    .of_row rowDecodes_addImm fun _ => rfl, nofun⟩

theorem decodesToItsPattern_of_mem_alu : ∀ r ∈ opcodeTableAlu, DecodesToItsPattern r := by
  simp only [opcodeTableAlu, List.forall_mem_cons]
  exact ⟨.of_row rowDecodes_ldReg fun _ => rfl,
    .of_row rowDecodes_orReg fun _ => rfl,
    .of_row rowDecodes_andReg fun _ => rfl,
    .of_row rowDecodes_xorReg fun _ => rfl,
    .of_row rowDecodes_addReg fun _ => rfl,
    .of_row rowDecodes_subReg fun _ => rfl,
    .of_row rowDecodes_shr fun _ => rfl,
    .of_row rowDecodes_subnReg fun _ => rfl,
    .of_row rowDecodes_shl fun _ => rfl, nofun⟩

theorem decodesToItsPattern_of_mem_high : ∀ r ∈ opcodeTableHigh, DecodesToItsPattern r := by
  simp only [opcodeTableHigh, List.forall_mem_cons]
  exact ⟨.of_row rowDecodes_sneReg fun _ => rfl,
    .of_row rowDecodes_ldI fun _ => rfl,
    .of_row rowDecodes_jpV0 fun _ => rfl,
    .of_row rowDecodes_rnd fun _ => rfl,
    .of_row rowDecodes_drw fun _ => rfl,
    .of_row rowDecodes_skp fun _ => rfl,
    .of_row rowDecodes_sknp fun _ => rfl,
    .of_row rowDecodes_ldVxDt fun _ => rfl,
    .of_row rowDecodes_ldVxK fun _ => rfl,
    .of_row rowDecodes_ldDtVx fun _ => rfl,
    .of_row rowDecodes_ldStVx fun _ => rfl,
    .of_row rowDecodes_addI fun _ => rfl,
    .of_row rowDecodes_ldF fun _ => rfl,
    .of_row rowDecodes_ldB fun _ => rfl,
    .of_row rowDecodes_stRegs fun _ => rfl,
    .of_row rowDecodes_ldRegs fun _ => rfl, nofun⟩

theorem decodesToItsPattern_of_mem {r : OpcodeRow} (hr : r ∈ opcodeTable) : DecodesToItsPattern r := by
  rcases List.mem_append.1 hr with hr | hr
  · rcases List.mem_append.1 hr with hr | hr
    · exact decodesToItsPattern_of_mem_low r hr
    · exact decodesToItsPattern_of_mem_alu r hr
  · exact decodesToItsPattern_of_mem_high r hr

/-- No two rows of the table share their pattern. -/
theorem eq_of_pattern_eq {r₁ r₂ : OpcodeRow} (h₁ : r₁ ∈ opcodeTable) (h₂ : r₂ ∈ opcodeTable)
    (h : r₁.pattern = r₂.pattern) : r₁ = r₂ := by
  have hnodup : (opcodeTable.map OpcodeRow.pattern).Nodup := by decide
  exact List.inj_on_of_nodup_map hnodup h₁ h₂ h

/-- Every instruction's word satisfies the row of its pattern. -/
theorem encodesItsRow : ∀ i : Instr, Laws.EncodesItsRow.Statement i
  | .cls => Laws.EncodesItsRow.cls
  | .ret => Laws.EncodesItsRow.ret
  | .jp nnn => Laws.EncodesItsRow.jp nnn
  | .call nnn => Laws.EncodesItsRow.call nnn
  | .seImm x nn => Laws.EncodesItsRow.seImm x nn
  | .sneImm x nn => Laws.EncodesItsRow.sneImm x nn
  | .seReg x y => Laws.EncodesItsRow.seReg x y
  | .ldImm x nn => Laws.EncodesItsRow.ldImm x nn
  | .addImm x nn => Laws.EncodesItsRow.addImm x nn
  | .ldReg x y => Laws.EncodesItsRow.ldReg x y
  | .orReg x y => Laws.EncodesItsRow.orReg x y
  | .andReg x y => Laws.EncodesItsRow.andReg x y
  | .xorReg x y => Laws.EncodesItsRow.xorReg x y
  | .addReg x y => Laws.EncodesItsRow.addReg x y
  | .subReg x y => Laws.EncodesItsRow.subReg x y
  | .shr x y => Laws.EncodesItsRow.shr x y
  | .subnReg x y => Laws.EncodesItsRow.subnReg x y
  | .shl x y => Laws.EncodesItsRow.shl x y
  | .sneReg x y => Laws.EncodesItsRow.sneReg x y
  | .ldI nnn => Laws.EncodesItsRow.ldI nnn
  | .jpV0 nnn => Laws.EncodesItsRow.jpV0 nnn
  | .rnd x nn => Laws.EncodesItsRow.rnd x nn
  | .drw x y n => Laws.EncodesItsRow.drw x y n
  | .skp x => Laws.EncodesItsRow.skp x
  | .sknp x => Laws.EncodesItsRow.sknp x
  | .ldVxDt x => Laws.EncodesItsRow.ldVxDt x
  | .ldVxK x => Laws.EncodesItsRow.ldVxK x
  | .ldDtVx x => Laws.EncodesItsRow.ldDtVx x
  | .ldStVx x => Laws.EncodesItsRow.ldStVx x
  | .addI x => Laws.EncodesItsRow.addI x
  | .ldF x => Laws.EncodesItsRow.ldF x
  | .ldB x => Laws.EncodesItsRow.ldB x
  | .stRegs x => Laws.EncodesItsRow.stRegs x
  | .ldRegs x => Laws.EncodesItsRow.ldRegs x

/-- Settles O4: the instruction a word decodes to has the pattern of every row the word satisfies, and no two rows share one; a
word that decodes is the word of its instruction, which satisfies its own row. -/
theorem opcodeTableDecidesDecoding : Obligations.OpcodeTableDecidesDecoding := by
  refine ⟨fun w r₁ r₂ h₁ h₂ hw₁ hw₂ => ?_, fun w r hr hw => decodesToItsPattern_of_mem hr w hw, fun w i h => ?_⟩
  · obtain ⟨i, hi, hp₁⟩ := decodesToItsPattern_of_mem h₁ w hw₁
    obtain ⟨j, hj, hp₂⟩ := decodesToItsPattern_of_mem h₂ w hw₂
    cases hi.symm.trans hj
    exact eq_of_pattern_eq h₁ h₂ (hp₁.symm.trans hp₂)
  · obtain ⟨r, hr, hp, hw⟩ := encodesItsRow i
    obtain ⟨-, henc⟩ := encode_of_decodeWord h
    exact ⟨r, hr, henc ▸ hw, hp⟩

end Sys2Proof.Proofs
end

section
/-! The words that no row takes: what the second levels of the decode tree reject. -/

namespace Sys2Proof.Proofs

open Sys2Proof

/-! ## What each second level rejects -/

section
variable (w : Word)

theorem decodeOp0_unrecognized_iff :
    decodeOp0 w = .error (.unrecognized w) ↔ w ≠ 0x00E0 ∧ w ≠ 0x00EE := by
  unfold decodeOp0
  split
  · next h => simp [h]
  · next hcls =>
    split
    · next h => simp [h]
    · next hret => exact iff_of_true rfl ⟨hcls, hret⟩

theorem decodeOp5_unrecognized_iff : decodeOp5 w = .error (.unrecognized w) ↔ fieldN w ≠ 0 := by
  unfold decodeOp5
  split
  · next h => simp [h]
  · next h => simp [h]

theorem decodeOp8_unrecognized_iff :
    decodeOp8 w = .error (.unrecognized w) ↔ fieldN w ∈ [0x8, 0x9, 0xA, 0xB, 0xC, 0xD, 0xF] := by
  have hlt := fieldN_lt w
  unfold decodeOp8
  split
  case h_10 =>
    simp only [imp_false, true_iff, List.mem_cons, List.not_mem_nil, or_false] at *
    omega
  all_goals next h => simp [h]

theorem decodeOp9_unrecognized_iff : decodeOp9 w = .error (.unrecognized w) ↔ fieldN w ≠ 0 := by
  unfold decodeOp9
  split
  · next h => simp [h]
  · next h => simp [h]

theorem decodeOpE_unrecognized_iff :
    decodeOpE w = .error (.unrecognized w) ↔ (fieldNN w).toNat ∉ [0x9E, 0xA1] := by
  unfold decodeOpE
  split
  · next h => simp [h]
  · next hskp =>
    split
    · next h => simp [h]
    · next hsknp =>
      rw [← BitVec.toNat_inj] at hskp hsknp
      simpa using ⟨hskp, hsknp⟩

theorem decodeOpF_unrecognized_iff :
    decodeOpF w = .error (.unrecognized w) ↔
      (fieldNN w).toNat ∉ [0x07, 0x0A, 0x15, 0x18, 0x1E, 0x29, 0x33, 0x55, 0x65] := by
  unfold decodeOpF
  split
  case h_10 =>
    simp only [imp_false] at *
    simp [*]
  all_goals next h => simp [h]

end

/-- Settles O5: the first level rejects nothing itself, and the six second levels reject one space each. -/
theorem unrecognizedWordsAreTheSixSpaces : Obligations.UnrecognizedWordsAreTheSixSpaces := by
  intro w
  have hop0 : w.toNat ≤ 0x0FFF ↔ (fieldOp w).val = 0 := by
    rw [fieldOp_val]
    omega
  rw [hop0, ← fieldOp_val, ← fieldN_eq, ← fieldNN_toNat, ← decodeOp8_unrecognized_iff,
    ← decodeOpE_unrecognized_iff, ← decodeOpF_unrecognized_iff, ← decodeOp0_unrecognized_iff]
  unfold decodeWord
  split
  case h_16 =>
    have hop : (fieldOp w).val = 0xF := by
      simp only [imp_false] at *
      omega
    simp [hop]
  case h_6 hop => simp [hop, decodeOp5_unrecognized_iff]
  case h_10 hop => simp [hop, decodeOp9_unrecognized_iff]
  all_goals next hop => simp [hop]

end Sys2Proof.Proofs
end

section
/-! The cycle of a running core in the terms of the claims: fetch, decode, execute, and the tick of the timers. -/

namespace Sys2Proof.Proofs

open Sys2Proof Sys2Proof.Machine Sys2Proof.Claims

/-! ## The end of a cycle -/

theorem tickTimer_eq_ticked (t : Byte) : tickTimer t = ticked t := by
  have hpos : t.toNat > 0 ↔ t ≠ 0 := by
    rw [gt_iff_lt, Nat.pos_iff_ne_zero, ne_eq, ne_eq, ← BitVec.toNat_inj]
    rfl
  simp only [tickTimer, ticked, hpos, ite_not]
  split
  · assumption
  · rfl

theorem endCycle_eq_cycleEnd (o : StepOutcome) : endCycle o = cycleEnd o := by
  cases o with
  | next t =>
    have htick : timerTick t = { t with delay := ticked t.delay, sound := ticked t.sound } := by
      rw [← tickTimer_eq_ticked, ← tickTimer_eq_ticked]
      rfl
    cases h : t.fault with
    | none => simp [endCycle, cycleEnd, h, htick]
    | some r => simp [endCycle, cycleEnd, h]
  | fault r => rfl
  | refused r => rfl

/-! ## What an executed instruction leaves in `opcode`, the fault record and the timers -/

variable {i : Instr} {s t : State}

theorem ExecEffect.opcode_eq (h : ExecEffect s i t) : t.opcode = s.opcode := by
  cases h <;> simp

/-- An instruction raises a fatal condition and does nothing else, or leaves the fault record alone. -/
theorem ExecEffect.fatal_or_fault_eq (h : ExecEffect s i t) : (∃ f, t = s.raiseFatal f) ∨ t.fault = s.fault := by
  cases h with
  | fatal f => exact .inl ⟨f, rfl⟩
  | _ => exact .inr (by simp)

theorem ExecEffect.delay_eq_or (h : ExecEffect s i t) : t.delay = s.delay ∨ ∃ x, i = .ldDtVx x := by
  cases h with
  | ldDtVx x => exact .inr ⟨x, rfl⟩
  | _ => exact .inl (by simp)

theorem ExecEffect.sound_eq_or (h : ExecEffect s i t) : t.sound = s.sound ∨ ∃ x, i = .ldStVx x := by
  cases h with
  | ldStVx x => exact .inr ⟨x, rfl⟩
  | _ => exact .inl (by simp)

theorem delay_of_exec (h : exec i s = .next t) : t.delay = delayExecuted i s := by
  obtain heq | ⟨x, rfl⟩ := (execEffect_of_exec h).delay_eq_or
  · cases i with
    | ldDtVx x => cases h; rfl
    | _ => exact heq
  · cases h; rfl

theorem sound_of_exec (h : exec i s = .next t) : t.sound = soundExecuted i s := by
  obtain heq | ⟨x, rfl⟩ := (execEffect_of_exec h).sound_eq_or
  · cases i with
    | ldStVx x => cases h; rfl
    | _ => exact heq
  · cases h; rfl

theorem reg_of_exec_ldVxDt {x : RegIdx} (h : exec (.ldVxDt x) s = .next t) : t.reg[x] = s.delay := by
  cases h
  exact reg_writeReg_same s x s.delay

/-! ## The ways a cycle of a running core can go -/

/-- The fetch is fatal; or decode or execute is, with nothing but `opcode` and the record written; or an instruction completes
and the timers tick. -/
theorem step_cases_running (hs : s.fault = none) (h : step s = .next t) :
    (s.pc.toNat + 1 > 0xFFF ∧ ∃ f, t = s.raiseFatal f) ∨
    (s.pc.toNat + 1 ≤ 0xFFF ∧ ∃ f, t = (s.setOpcode (wordAtPc s)).raiseFatal f) ∨
    ∃ i u, Runs s i ∧ exec i (s.setOpcode (wordAtPc s)) = .next u ∧ u.fault = none ∧ t = timerTick u := by
  obtain ⟨hne, -⟩ | ⟨-, f, hfetch, rfl⟩ | ⟨-, w, e, hfetch, -, rfl⟩ | ⟨-, w, i, u, hfetch, hdec, hexec, hend⟩ :=
    step_cases h
  · exact absurd hs hne
  · refine .inl ⟨?_, f, rfl⟩
    by_contra hpc
    cases hfetch.symm.trans (fetch_ok s (by omega))
  · obtain ⟨hpc, rfl⟩ := fetch_eq_ok hfetch
    exact .inr (.inl ⟨hpc, _, rfl⟩)
  · obtain ⟨hpc, rfl⟩ := fetch_eq_ok hfetch
    obtain ⟨hu, rfl⟩ | ⟨hu, rfl⟩ := hend
    · obtain hf | hfault := (execEffect_of_exec hexec).fatal_or_fault_eq
      · exact .inr (.inl ⟨hpc, hf⟩)
      · exact absurd (hfault.trans hs) hu
    · exact .inr (.inr ⟨i, u, ⟨hs, hpc, hdec⟩, hexec, hu, rfl⟩)

/-- Settles O8: the three ways a cycle can go; only the last one ticks, and it ticks what execute left. -/
theorem timersTickAtTheEndOfEveryCompletedCycle : Obligations.TimersTickAtTheEndOfEveryCompletedCycle := by
  intro s t hs h
  obtain ⟨-, f, rfl⟩ | ⟨-, f, rfl⟩ | ⟨i, u, hrun, hexec, hu, rfl⟩ := step_cases_running hs h
  · exact ⟨nofun, fun _ => ⟨rfl, rfl⟩⟩
  · exact ⟨nofun, fun _ => ⟨rfl, rfl⟩⟩
  · have hdelay : u.delay = delayExecuted i s := delay_of_exec (s := s.setOpcode (wordAtPc s)) hexec
    have hsound : u.sound = soundExecuted i s := sound_of_exec (s := s.setOpcode (wordAtPc s)) hexec
    refine ⟨fun _ => ⟨i, hrun, ?_, ?_, ?_⟩, fun hne => absurd hu hne⟩
    · exact hdelay ▸ tickTimer_toNat u.delay
    · exact hsound ▸ tickTimer_toNat u.sound
    · rintro x rfl
      exact reg_of_exec_ldVxDt (s := s.setOpcode (wordAtPc s)) (t := u) hexec

/-- Settles O1: the decoder evaluated on each of the eight words. -/
theorem wordsOfTheFormatsDecode : Obligations.WordsOfTheFormatsDecode :=
  ⟨rfl, rfl, rfl, rfl, rfl, rfl, rfl, rfl⟩

/-! ## Fetch -/

theorem fetch_wordAtPc (s : State) (h : s.pc.toNat + 1 ≤ 0xFFF) : fetch s = .ok (wordAtPc s) :=
  fetch_of_bytes h rfl rfl

theorem wordAtPc_toNat (s : State) :
    (wordAtPc s).toNat = (s.readByte s.pc.toNat).toNat * 256 + (s.readByte (s.pc.toNat + 1)).toNat := by
  rw [wordAtPc, BitVec.toNat_ofNat, Nat.mod_eq_of_lt (by omega)]

/-- A cycle that fetched ends with the fetched word in `opcode`. -/
theorem opcode_of_step (hs : s.fault = none) (hpc : s.pc.toNat + 1 ≤ 0xFFF) (h : step s = .next t) :
    t.opcode = wordAtPc s := by
  obtain ⟨hout, -⟩ | ⟨-, f, rfl⟩ | ⟨i, u, -, hexec, -, rfl⟩ := step_cases_running hs h
  · omega
  · rfl
  · exact (execEffect_of_exec hexec).opcode_eq

/-- Settles O6: the two sides of the bound on `pc + 1`; what runs after the fetch keeps `opcode`. -/
theorem fetchReadsTwoBytesBigEndian : Obligations.FetchReadsTwoBytesBigEndian := fun s =>
  ⟨fun h => fetch_error s (by omega),
    fun hpc => ⟨fetch_wordAtPc s hpc, wordAtPc_toNat s, fun hs _ h => opcode_of_step hs hpc h⟩⟩

/-! ## Decode and execute -/

theorem decodeWord_of_decode_pair {b0 b1 : Byte} (h : decode [b0, b1] = .ok (i, [])) :
    decodeWord (wordOfBytes b0 b1) = .ok i := by
  cases hd : decodeWord (wordOfBytes b0 b1) with
  | ok j => simpa [decode, hd] using h
  | error e => simp [decode, hd] at h

/-- Settles O7: the bytes at `pc` are the fetched word, which decodes to a well-formed instruction, and the end of the cycle is
that of the claims. -/
theorem stepRunsTheDecodedInstruction : Obligations.StepRunsTheDecodedInstruction := by
  rintro s _ _ i hs hpc rfl rfl hdec
  have hword := decodeWord_of_decode_pair hdec
  obtain ⟨hwf, -⟩ := encode_of_decodeWord hword
  exact ⟨hwf, (step_decoded s _ i hs (fetch_ok s hpc) hword).trans (endCycle_eq_cycleEnd _)⟩

/-- Settles O10: a state with a fault record is halted. -/
theorem haltedCoreChangesNothing : Obligations.HaltedCoreChangesNothing := by
  intro s hs
  obtain ⟨r, hr⟩ := Option.ne_none_iff_exists'.1 hs
  exact step_halted s r hr

end Sys2Proof.Proofs
end

section
/-! Control transfer (40_control_flow.md): jumps and skips write `pc` only, a call and a return move one slot of the stack. -/

namespace Sys2Proof.Proofs

open Sys2Proof Sys2Proof.Machine Sys2Proof.Claims

/-! ## Address operands -/

theorem addrOperand_eq_ofNat (nnn : BitVec 12) : addrOperand nnn = BitVec.ofNat 16 nnn.toNat :=
  (BitVec.ofNat_toNat 16 nnn).symm

theorem addrOperand_toNat (nnn : BitVec 12) : (addrOperand nnn).toNat = nnn.toNat :=
  BitVec.toNat_setWidth_of_le (by decide)

theorem zext16_toNat (v : Byte) : (zext16 v).toNat = v.toNat := BitVec.toNat_setWidth_of_le (by decide)

/-- The target of the indexed jump does not wrap (40_control_flow.md R108). -/
theorem addrOperand_add_zext16_toNat (nnn : BitVec 12) (v : Byte) :
    (addrOperand nnn + zext16 v).toNat = nnn.toNat + v.toNat := by
  have hsum : (addrOperand nnn).toNat + (zext16 v).toNat < 2 ^ 16 := by
    have := addrOperand_toNat_le nnn
    have := zext16_toNat_le v
    omega
  rw [BitVec.toNat_add_of_lt hsum, addrOperand_toNat, zext16_toNat]

/-! ## Instructions that write `pc` only -/

section
variable {i : Instr} {s : State}

theorem writesPc_of_exec_setPc {p : Word} (h : exec i s = .next (s.setPc p)) : WritesPc i s p :=
  ⟨s.setPc p, h, rfl, fun _ => rfl⟩

/-- The skip pattern (40_control_flow.md R100), with the condition it tests as a proposition. -/
theorem writesPc_of_exec_skipIf {c : Bool} {P : Prop} [Decidable P] (hc : c = true ↔ P)
    (h : exec i s = .next (s.skipIf c)) : WritesPc i s (if P then s.pc + 4 else s.pc + 2) := by
  simp only [← hc]
  exact writesPc_of_exec_setPc h

end

theorem writesPc_jp (nnn : BitVec 12) (s : State) : WritesPc (.jp nnn) s (BitVec.ofNat 16 nnn.toNat) :=
  addrOperand_eq_ofNat nnn ▸ writesPc_of_exec_setPc rfl

/-- Settles O33: both are the skip pattern, on a register and the immediate. -/
theorem immediateSkipsFollowTheSkipPattern : Obligations.ImmediateSkipsFollowTheSkipPattern :=
  ⟨rowDecodes_seImm, rowDecodes_sneImm, fun _ _ _ =>
    ⟨writesPc_of_exec_skipIf beq_iff_eq rfl, writesPc_of_exec_skipIf bne_iff_ne rfl⟩⟩

/-- Ops 0x5 and 0x9 reject a nonzero function nibble at the second level of the decode tree. -/
theorem decodeWord_registerSkip_unrecognized {w : Word} (hop : w.toNat / 4096 = 5 ∨ w.toNat / 4096 = 9)
    (hn : w.toNat % 16 ≠ 0) : decodeWord w = .error (.unrecognized w) := by
  rw [← fieldOp_val] at hop
  rw [← fieldN_eq] at hn
  obtain hop | hop := hop
  · exact (decodeWord_op5 hop).trans ((decodeOp5_unrecognized_iff w).2 hn)
  · exact (decodeWord_op9 hop).trans ((decodeOp9_unrecognized_iff w).2 hn)

/-- Settles O34: both are the skip pattern, on two registers. -/
theorem registerSkipsFollowTheSkipPattern : Obligations.RegisterSkipsFollowTheSkipPattern :=
  ⟨rowDecodes_seReg, rowDecodes_sneReg, fun _ => decodeWord_registerSkip_unrecognized, fun _ _ _ =>
    ⟨writesPc_of_exec_skipIf beq_iff_eq rfl, writesPc_of_exec_skipIf bne_iff_ne rfl⟩⟩

/-- Settles O35: the target is at most 0xFFF + 0xFF, so it does not wrap. -/
theorem indexedJumpAddsRegisterZero : Obligations.IndexedJumpAddsRegisterZero :=
  ⟨rowDecodes_jpV0, fun nnn s => ⟨addrOperand nnn + zext16 (s.readReg 0), addrOperand_add_zext16_toNat nnn _,
    toNat_add_le (addrOperand_toNat_le nnn) (zext16_toNat_le _), writesPc_of_exec_setPc rfl⟩⟩

/-! ## The cycle of a jump -/

/-- A cycle whose instruction leaves the core running ends with the tick. -/
theorem step_of_runs {i : Instr} {s u : State} (h : Runs s i) (hexec : exec i (s.setOpcode (wordAtPc s)) = .next u)
    (hu : u.fault = none) : step s = .next (timerTick u) := by
  obtain ⟨hs, hpc, hdec⟩ := h
  rw [step_decoded s _ i hs (fetch_wordAtPc s hpc) hdec, hexec]
  simp only [endCycle, hu]

/-- The state at the end of a cycle that runs a jump. -/
def afterJump (nnn : BitVec 12) (s : State) : State :=
  timerTick ((s.setOpcode (wordAtPc s)).setPc (addrOperand nnn))

theorem step_of_runs_jp {nnn : BitVec 12} {s : State} (h : Runs s (.jp nnn)) : step s = .next (afterJump nnn s) :=
  step_of_runs h rfl h.1

/-- The bound of a fetch is checked by the fetch that follows the jump (92_eei_decisions.md D4). -/
theorem fetch_afterJump_FFF (s : State) : fetch (afterJump 0xFFF s) = .error ⟨.fetchOutOfRange, 0xFFF⟩ :=
  fetch_error (afterJump 0xFFF s) (lt_irrefl 0xFFF)

/-- Settles O32: the execute step writes `pc` only, and the rest of its cycle is the tick. -/
theorem jumpSetsPc : Obligations.JumpSetsPc := by
  refine ⟨rowDecodes_jp, writesPc_jp, fun nnn s h => ⟨afterJump nnn s, step_of_runs_jp h, h.1, addrOperand_toNat nnn,
    tickTimer_eq_ticked _, tickTimer_eq_ticked _, ?_⟩⟩
  rintro rfl
  exact fetch_afterJump_FFF s

/-! ## Call and return -/

/-- A pushed value is in the slot at the old `sp`, and every other slot is as before. -/
theorem getElem_stack_set_sp {s : State} (h : s.sp.val < 16) (v : Word) (j : Fin 16) :
    (s.stack.set s.sp.val v)[j] = if j.val = s.sp.val then v else s.stack[j] := by
  simp only [Fin.getElem_fin, Vector.getElem_set, eq_comm]

/-- Settles O36: the two sides of the bound on the push. -/
theorem callPushesItsOwnAddress : Obligations.CallPushesItsOwnAddress :=
  ⟨rowDecodes_call, fun nnn s =>
    ⟨fun h => ⟨_, exec_call_ok nnn s h, getElem_stack_set_sp h s.pc, rfl,
      addrOperand_eq_ofNat nnn ▸ rfl, fun _ => rfl⟩,
    exec_call_error nnn s⟩⟩

/-- Settles O37: the two sides of the bound on the pop. -/
theorem returnPopsAndAddsTwo : Obligations.ReturnPopsAndAddsTwo :=
  ⟨rowDecodes_ret, fun s => ⟨fun h => ⟨_, exec_ret_ok s h, rfl, rfl, fun _ => rfl⟩, exec_ret_error s⟩⟩

/-- Settles O38: the slot that the return pops is the one that the call wrote. -/
theorem returnResumesAfterTheCall : Obligations.ReturnResumesAfterTheCall := by
  intro nnn s t u hs hcall hstack hsp
  cases hcall.symm.trans (exec_call_ok nnn s hs)
  have hval : u.sp.val = s.sp.val + 1 := congrArg Fin.val hsp
  have hpop : u.stack[u.sp.val - 1]'(by omega) = s.pc := by
    simp [hstack, hval]
  exact ⟨_, exec_ret_ok u (by omega), congrArg (· + 2) hpop, Fin.ext (Nat.sub_eq_of_eq_add hval), rfl⟩

end Sys2Proof.Proofs
end

section
/-! Register file and ALU (41_alu.md): the instructions that write one register, the flag writers under both statement
orders, the corner cases of the flag register, and the random byte. -/

namespace Sys2Proof.Proofs

open Sys2Proof Sys2Proof.Machine Sys2Proof.Claims

/-! ## Instructions that write one register and no flag -/

theorem writesReg_of_exec_writeResult {i : Instr} {s : State} {x : RegIdx} {v : Byte}
    (h : exec i s = .next (s.writeResult x v)) : WritesReg i s x v :=
  ⟨s.writeResult x v, h, reg_writeReg_same s x v, fun _ hr => reg_writeReg_ne s v hr, rfl, fun _ => rfl⟩

/-- Settles O39: the immediate is the value written. -/
theorem loadImmediateWritesTheRegister : Obligations.LoadImmediateWritesTheRegister :=
  ⟨rowDecodes_ldImm, fun _ _ _ => writesReg_of_exec_writeResult rfl⟩

/-- Settles O40: the sum of two bytes is the sum of their numbers modulo 256. -/
theorem addImmediateWrapsAndSetsNoFlag : Obligations.AddImmediateWrapsAndSetsNoFlag :=
  ⟨rowDecodes_addImm, fun x nn s => BitVec.add_def s.reg[x] nn ▸ writesReg_of_exec_writeResult rfl⟩

/-- Settles O41: the four instructions differ in the value written only. -/
theorem copyAndLogicWriteTheRegisterOnly : Obligations.CopyAndLogicWriteTheRegisterOnly :=
  ⟨rowDecodes_ldReg, rowDecodes_orReg, rowDecodes_andReg, rowDecodes_xorReg, fun _ _ _ =>
    ⟨writesReg_of_exec_writeResult rfl, writesReg_of_exec_writeResult rfl,
      writesReg_of_exec_writeResult rfl, writesReg_of_exec_writeResult rfl⟩⟩

/-! ## Flags and results as numbers -/

theorem flagByte_decide (p : Prop) [Decidable p] : flagByte (decide p) = if p then 1 else 0 := by
  by_cases h : p <;> simp [flagByte, h]

theorem carryFlag_eq (a b : Byte) : carryFlag a b = if a.toNat + b.toNat > 255 then 1 else 0 := flagByte_decide _

theorem notBorrowFlag_eq (a b : Byte) : notBorrowFlag a b = if b.toNat > a.toNat then 0 else 1 := by
  rw [notBorrowFlag, ← decide_not, flagByte_decide, ite_not]

theorem eq_ofNat_of_toNat {v : Byte} {n : Nat} (h : v.toNat = n) : v = BitVec.ofNat 8 n := by
  rw [← h, BitVec.ofNat_toNat, BitVec.setWidth_eq]

theorem lsbFlag_eq (v : Byte) : lsbFlag v = BitVec.ofNat 8 (v.toNat % 2) :=
  eq_ofNat_of_toNat (Nat.and_one_is_mod v.toNat)

/-- Only one bit of a byte is left above the lowest seven. -/
theorem msbFlag_eq (v : Byte) : msbFlag v = BitVec.ofNat 8 (v.toNat / 128) := by
  apply eq_ofNat_of_toNat
  rw [msbFlag, BitVec.toNat_and, BitVec.toNat_ushiftRight, Nat.shiftRight_eq_div_pow]
  exact (Nat.and_one_is_mod _).trans (Nat.mod_eq_of_lt (by omega))

theorem sub_eq_ofNat (a b : Byte) : a - b = BitVec.ofNat 8 (a.toNat + 256 - b.toNat) := by
  rw [BitVec.sub_def]
  congr 1
  omega

theorem ushiftRight_one_eq_ofNat (v : Byte) : v >>> 1 = BitVec.ofNat 8 (v.toNat / 2) :=
  eq_ofNat_of_toNat (Nat.shiftRight_eq_div_pow v.toNat 1)

theorem shiftLeft_one_eq_ofNat (v : Byte) : v <<< 1 = BitVec.ofNat 8 (v.toNat * 2) := by
  apply BitVec.eq_of_toNat_eq
  rw [BitVec.toNat_shiftLeft, BitVec.toNat_ofNat, Nat.shiftLeft_eq, pow_one]

/-! ## The two writes of a flag writer -/

theorem reg_writeReg (s : State) (x r : RegIdx) (v : Byte) :
    (s.writeReg x v).reg[r] = if r = x then v else s.reg[r] := by
  split
  · next h => exact h ▸ reg_writeReg_same s x v
  · next h => exact reg_writeReg_ne s v h

/-- Under either statement order the result is computed from the operands the parameter says (41_alu.md R130, R142). -/
theorem writeFlagged_eq_resultOperand (s : State) (flag res : Byte → Byte → Byte) (x y : RegIdx) {f : Byte}
    (hf : flag s.reg[x] s.reg[y] = f) : s.writeFlagged flag res x y =
      (s.writeReg flagReg f).writeReg x (res (resultOperand s f x) (resultOperand s f y)) := by
  subst hf
  unfold State.writeFlagged resultOperand
  split
  · next h => simp only [State.readReg_eq, reg_writeReg, h, true_and]
  · next h => simp only [State.readReg_eq, h, reduceCtorEq, false_and, if_false]

/-- What a flag writer does, from its flag on the operands at the start and its result as the rule writes it. -/
theorem writesFlagged_of_exec {i : Instr} {s : State} {flag res result : Byte → Byte → Byte} {x y : RegIdx} {f : Byte}
    (h : exec i s = .next (s.writeFlagged flag res x y).advance) (hf : flag s.reg[x] s.reg[y] = f)
    (hres : ∀ a b, res a b = result a b) : WritesFlagged i x y s f result := by
  rw [writeFlagged_eq_resultOperand s flag res x y hf, hres] at h
  refine ⟨_, h, reg_writeReg_same _ x _, fun hx => ?_, fun r hrx hrf => ?_, rfl, fun _ => rfl⟩
  · exact (reg_writeReg_ne _ _ hx.symm).trans (reg_writeReg_same s flagReg f)
  · exact (reg_writeReg_ne _ _ hrx).trans (reg_writeReg_ne s f hrf)

theorem writesFlagged_addReg (x y : RegIdx) (s : State) :
    WritesFlagged (.addReg x y) x y s (if (s.reg[x]).toNat + (s.reg[y]).toNat > 255 then 1 else 0)
      (fun a b => BitVec.ofNat 8 (a.toNat + b.toNat)) :=
  writesFlagged_of_exec rfl (carryFlag_eq _ _) BitVec.add_def

theorem writesFlagged_subReg (x y : RegIdx) (s : State) :
    WritesFlagged (.subReg x y) x y s (if (s.reg[y]).toNat > (s.reg[x]).toNat then 0 else 1)
      (fun a b => BitVec.ofNat 8 (a.toNat + 256 - b.toNat)) :=
  writesFlagged_of_exec rfl (notBorrowFlag_eq _ _) sub_eq_ofNat

theorem writesFlagged_subnReg (x y : RegIdx) (s : State) :
    WritesFlagged (.subnReg x y) x y s (if (s.reg[x]).toNat > (s.reg[y]).toNat then 0 else 1)
      (fun a b => BitVec.ofNat 8 (b.toNat + 256 - a.toNat)) :=
  writesFlagged_of_exec rfl (notBorrowFlag_eq _ _) fun a b => sub_eq_ofNat b a

theorem writesFlagged_shr (x y : RegIdx) (s : State) :
    WritesFlagged (.shr x y) x y s (BitVec.ofNat 8 ((s.reg[x]).toNat % 2)) (fun a _ => BitVec.ofNat 8 (a.toNat / 2)) :=
  writesFlagged_of_exec rfl (lsbFlag_eq _) fun a _ => ushiftRight_one_eq_ofNat a

theorem writesFlagged_shl (x y : RegIdx) (s : State) :
    WritesFlagged (.shl x y) x y s (BitVec.ofNat 8 ((s.reg[x]).toNat / 128)) (fun a _ => BitVec.ofNat 8 (a.toNat * 2)) :=
  writesFlagged_of_exec rfl (msbFlag_eq _) fun a _ => shiftLeft_one_eq_ofNat a

/-- Settles O42: the flag is the carry, the result the sum. -/
theorem addRegistersCarriesOut : Obligations.AddRegistersCarriesOut :=
  ⟨rowDecodes_addReg, writesFlagged_addReg⟩

/-- Settles O43: the two subtractions, with minuend and subtrahend exchanged. -/
theorem subtractionsReportNotBorrow : Obligations.SubtractionsReportNotBorrow :=
  ⟨rowDecodes_subReg, rowDecodes_subnReg, fun x y s => ⟨writesFlagged_subReg x y s, writesFlagged_subnReg x y s⟩⟩

/-- Settles O44: flag and result are functions of the first operand. -/
theorem shiftsReportTheBitShiftedOut : Obligations.ShiftsReportTheBitShiftedOut :=
  ⟨rowDecodes_shr, rowDecodes_shl, fun x y s => ⟨writesFlagged_shr x y s, writesFlagged_shl x y s⟩⟩

/-! ## The flag register as an operand, under `Sequential` -/

section
variable {s : State} {x y : RegIdx}

theorem resultOperand_flagReg (hs : s.params.aluOrder = .sequential) (flag : Byte) : resultOperand s flag 15 = flag :=
  if_pos ⟨hs, rfl⟩

theorem resultOperand_of_ne (hx : x ≠ 15) (flag : Byte) : resultOperand s flag x = s.reg[x] :=
  if_neg fun h => hx h.2

/-- The destination of a flag writer, once its operands are known. -/
theorem exists_exec_toNat_reg {i : Instr} {flag a b : Byte} {result : Byte → Byte → Byte} {n : Nat}
    (h : WritesFlagged i x y s flag result) (ha : resultOperand s flag x = a) (hb : resultOperand s flag y = b)
    (hn : (result a b).toNat = n) : ∃ t, exec i s = .next t ∧ (t.reg[x]).toNat = n := by
  obtain ⟨t, hexec, hx, -⟩ := h
  exact ⟨t, hexec, by rw [hx, ha, hb, hn]⟩

end

/-- A flag as a number. -/
theorem toNat_ite_byte (c : Prop) [Decidable c] (a b : Byte) :
    (if c then a else b).toNat = if c then a.toNat else b.toNat := apply_ite BitVec.toNat c a b

/-- Settles O45: in each case register 0xF is an operand and holds the flag just written. -/
theorem sequentialFlagRegisterCorners : Obligations.SequentialFlagRegisterCorners := by
  intro x y s hs hx hy
  have hf := resultOperand_flagReg hs
  have hvx := resultOperand_of_ne (s := s) hx
  have hvy := resultOperand_of_ne (s := s) hy
  refine ⟨exists_exec_toNat_reg (writesFlagged_addReg 15 y s) (hf _) (hvy _) ?addX,
    exists_exec_toNat_reg (writesFlagged_addReg x 15 s) (hvx _) (hf _) ?addY,
    exists_exec_toNat_reg (writesFlagged_addReg 15 15 s) (hf _) (hf _) ?addXY,
    exists_exec_toNat_reg (writesFlagged_subReg 15 y s) (hf _) (hvy _) ?subX,
    exists_exec_toNat_reg (writesFlagged_subReg x 15 s) (hvx _) (hf _) ?subY,
    exists_exec_toNat_reg (writesFlagged_subReg 15 15 s) (hf _) (hf _) ?subXY,
    exists_exec_toNat_reg (writesFlagged_shr 15 y s) (hf _) (hvy _) ?shrX,
    exists_exec_toNat_reg (writesFlagged_subnReg 15 y s) (hf _) (hvy _) ?subnX,
    exists_exec_toNat_reg (writesFlagged_subnReg x 15 s) (hvx _) (hf _) ?subnY,
    exists_exec_toNat_reg (writesFlagged_subnReg 15 15 s) (hf _) (hf _) ?subnXY,
    exists_exec_toNat_reg (writesFlagged_shl 15 y s) (hf _) (hvy _) ?shlX⟩
  case addX | addY | subX | subY | subnX | subnY =>
    simp only [BitVec.toNat_ofNat, toNat_ite_byte]
    rfl
  case addXY =>
    have hcarry (n : Nat) : n + n > 255 ↔ n ≥ 0x80 := by omega
    simp only [hcarry]
    split
    · rfl
    · rfl
  case subXY | subnXY =>
    simp only [Nat.add_sub_cancel_left]
    rfl
  case shrX | shlX =>
    simp only [BitVec.toNat_ofNat]
    omega

/-! ## The random byte -/

theorem nextRandom_of_randomIn {s : State} {r : Byte} {rest : List Byte} (h : s.randomIn = r :: rest) :
    s.nextRandom = r := by
  simp only [State.nextRandom, h]

/-- Settles O46: the byte written is the mask of one draw, and the draw is the head of the injected bytes. -/
theorem randomByteIsMasked : Obligations.RandomByteIsMasked := by
  refine ⟨rowDecodes_rnd, fun x nn s => ?_⟩
  have hreg : (s.consumeRandom.writeResult x (nn &&& s.nextRandom)).reg[x] = nn &&& s.nextRandom :=
    reg_writeReg_same s.consumeRandom x _
  refine ⟨_, rfl, hreg, fun r rest h => ⟨?_, ?_⟩, ?_, ?_, fun r hr => reg_writeReg_ne s.consumeRandom _ hr, rfl,
    fun _ => rfl⟩
  · rw [hreg, nextRandom_of_randomIn h]
  · exact congrArg List.tail h
  · rintro rfl
    exact hreg.trans BitVec.zero_and
  · rintro rfl
    exact hreg.trans BitVec.allOnes_and

end Sys2Proof.Proofs
end

section
/-! Index register and memory blocks (42_index_memory.md): the three instructions that write `index`, the range check of a
block access, and the instructions that store and load a block. -/

namespace Sys2Proof.Proofs

open Sys2Proof Sys2Proof.Machine Sys2Proof.Claims

variable {i : Instr} {s t : State}

/-! ## The index register -/

theorem ExecEffect.index_eq_or_writer (h : ExecEffect s i t) :
    t.index = s.index ∨ (∃ nnn, i = .ldI nnn) ∨ (∃ x, i = .addI x) ∨ ∃ x, i = .ldF x := by
  cases h with
  | ldI nnn => exact .inr (.inl ⟨nnn, rfl⟩)
  | addI x => exact .inr (.inr (.inl ⟨x, rfl⟩))
  | ldF x => exact .inr (.inr (.inr ⟨x, rfl⟩))
  | _ => exact .inl (by simp)

theorem execOnly_index : ExecOnly State.index := ⟨fun _ _ => rfl, fun _ _ => rfl, fun _ => rfl⟩

/-- Settles O22: `index` changes only in the execute step, and of all effects only those of its three writers change it. -/
theorem indexChangesOnlyThroughItsWriters : Obligations.IndexChangesOnlyThroughItsWriters :=
  fun _ _ => execOnly_index.runs_of_ne (·.index_eq_or_writer)

theorem writesIndex_of_exec_setIndex {v w : Word} (h : exec i s = .next (s.setIndex v).advance) (hv : v = w) :
    WritesIndex i s w :=
  ⟨_, h, hv ▸ rfl, fun _ => rfl⟩

theorem five_mul_zext16_eq_ofNat (v : Byte) : 5 * zext16 v = BitVec.ofNat 16 (5 * v.toNat) := by
  apply BitVec.eq_of_toNat_eq
  rw [BitVec.toNat_mul, zext16_toNat, BitVec.toNat_ofNat]
  rfl

theorem add_zext16_eq_ofNat (a : Word) (v : Byte) : a + zext16 v = BitVec.ofNat 16 ((a.toNat + v.toNat) % 65536) := by
  apply BitVec.eq_of_toNat_eq
  rw [BitVec.toNat_add, zext16_toNat, BitVec.toNat_ofNat, Nat.mod_mod]

/-- Settles O47: both write the value of one operand to `index`. -/
theorem indexLoadsWriteIndexOnly : Obligations.IndexLoadsWriteIndexOnly :=
  ⟨rowDecodes_ldI, rowDecodes_ldF, fun nnn _ _ =>
    ⟨writesIndex_of_exec_setIndex rfl (addrOperand_eq_ofNat nnn),
      writesIndex_of_exec_setIndex rfl (five_mul_zext16_eq_ofNat _)⟩⟩

/-- Settles O48: the sum of two words is the sum of their numbers modulo 2^16. -/
theorem addToIndexWrapsAt16Bits : Obligations.AddToIndexWrapsAt16Bits :=
  ⟨rowDecodes_addI, fun _ _ => writesIndex_of_exec_setIndex rfl (add_zext16_eq_ofNat _ _)⟩

/-! ## The range check -/

/-- A block of memory as the list of its bytes. -/
theorem getElem?_map_readByte (s : State) (base : Nat) {n k : Nat} (hk : k < n) :
    ((List.range n).map fun j => s.readByte (base + j))[k]? = some (s.readByte (base + k)) := by
  rw [List.getElem?_map, List.getElem?_range hk, Option.map_some]

/-- Settles O19: a block lies inside memory exactly when it is empty or its last byte does, which is what the check asks. -/
theorem rangeCheckDecidesTheBlock : Obligations.RangeCheckDecidesTheBlock := by
  intro s base bytes
  refine ⟨fun ⟨k, hk, hout⟩ => checkRange_error (by omega), fun hin => ?_⟩
  have hblock : bytes.length = 0 ∨ base + bytes.length ≤ 0x1000 := by
    obtain hempty | hpos := Nat.eq_zero_or_pos bytes.length
    · exact .inl hempty
    · have hlast := hin (bytes.length - 1) (by omega)
      omega
  exact ⟨checkRange_ok hblock,
    ⟨_, storeBytes_ok bytes base s (hblock.imp_left List.eq_nil_of_length_eq_zero)⟩,
    _, loadBytes_ok s bytes.length base hblock, by simp, fun _ hk => getElem?_map_readByte s base hk⟩

/-! ## Storing a block -/

/-- The bytes of a block write stand in the block afterwards. -/
theorem readByte_writeBytes_getElem? {base k : Nat} {bs : List Byte} {b : Byte} (s : State) (h : bs[k]? = some b) :
    (State.writeBytes base bs s).readByte (base + k) = b := by
  rw [State.readByte_writeBytes, if_pos (Nat.le_add_right base k), Nat.add_sub_cancel_left, h, Option.getD_some]

/-- A block write leaves every byte outside the block alone. -/
theorem readByte_writeBytes_outside {base a : Nat} {bs : List Byte} (s : State) (h : a < base ∨ base + bs.length ≤ a) :
    (State.writeBytes base bs s).readByte a = s.readByte a := by
  by_contra hne
  rw [writeBytes_eq_setMem] at hne
  obtain ⟨hlo, hhi⟩ := mem_block_of_readByte_ne hne
  omega

/-- What an instruction does that writes the bytes `bs` from `index` up and advances `pc`. -/
theorem stores_of_exec_writeBytes {bs : List Byte} {n : Nat} {post : State → Prop}
    (h : exec i s = .next (State.writeBytes s.dataBase bs s).advance) (hlen : bs.length = n + 1)
    (hpost : ∀ t : State, (∀ k b, bs[k]? = some b → t.readByte (s.index.toNat + k) = b) → post t) :
    Stores i s s.dataBase (s.dataBase + n) post := by
  refine ⟨_, h, fun a ha => ?_, ?_, hpost _ fun k b hk => ?_⟩
  · exact readByte_writeBytes_outside s (by omega)
  · rw [writeBytes_eq_setMem]
    rfl
  · exact readByte_writeBytes_getElem? s hk

theorem stores_ldB (x : RegIdx) (h : s.index.toNat + 2 ≤ 0xFFF) :
    Stores (.ldB x) s s.dataBase (s.dataBase + 2) fun t =>
      (t.readByte s.index.toNat).toNat = (s.reg[x]).toNat / 100 ∧
      (t.readByte (s.index.toNat + 1)).toNat = (s.reg[x]).toNat / 10 % 10 ∧
      (t.readByte (s.index.toNat + 2)).toNat = (s.reg[x]).toNat % 10 := by
  refine stores_of_exec_writeBytes (exec_ldB_ok x s (by omega)) rfl fun t ht => ⟨?_, ?_, ?_⟩
  · have hhundreds : t.readByte s.index.toNat = s.reg[x] / 100 := ht 0 _ rfl
    rw [hhundreds, BitVec.toNat_udiv]
    rfl
  · rw [ht 1 _ rfl, BitVec.toNat_umod, BitVec.toNat_udiv]
    rfl
  · rw [ht 2 _ rfl, BitVec.toNat_umod]
    rfl

/-- Settles O49: the two sides of the bound on the last digit's address. -/
theorem decimalDigitsAreStored : Obligations.DecimalDigitsAreStored :=
  ⟨rowDecodes_ldB, fun x s => ⟨stores_ldB x, fun h => exec_ldB_error x s (by omega)⟩⟩

theorem stores_stRegs (x : RegIdx) (h : s.index.toNat + x.val ≤ 0xFFF) :
    Stores (.stRegs x) s s.dataBase (s.dataBase + x.val) fun t =>
      ∀ r : RegIdx, r ≤ x → t.readByte (s.index.toNat + r.val) = s.reg[r] := by
  refine stores_of_exec_writeBytes (exec_stRegs_ok x s (by omega)) (State.length_regRange s x) fun t ht r hr => ?_
  have hbyte : (s.regRange x)[r.val]? = some s.reg[r] :=
    (State.regRange_getElem? s x r.val).trans (dif_pos (Nat.lt_succ_of_le hr))
  exact ht r.val _ hbyte

/-- Settles O50: the two sides of the bound on the last register's address. -/
theorem registersAreStoredFromIndexUp : Obligations.RegistersAreStoredFromIndexUp :=
  ⟨rowDecodes_stRegs, fun x s => ⟨stores_stRegs x, fun h => exec_stRegs_error x s (by omega)⟩⟩

/-! ## Loading a block -/

/-- A register up to X takes its byte of the block, and one above X keeps its value. -/
theorem getElem_writeRegRange_block (s : State) (base : Nat) (x r : RegIdx) :
    (writeRegRange 0 ((List.range (x.val + 1)).map fun k => s.readByte (base + k)) s.reg)[r] =
      if r ≤ x then s.readByte (base + r.val) else s.reg[r] := by
  split
  · next hr =>
    have hget := getElem_writeRegRange ((List.range (x.val + 1)).map fun k => s.readByte (base + k)) 0 s.reg r.val r.isLt
    rw [if_pos (Nat.zero_le _), Nat.sub_zero, getElem?_map_readByte s base (Nat.lt_succ_of_le hr)] at hget
    exact hget
  · next hr => exact getElem_writeRegRange_above _ s.reg (by simpa using hr)

/-- What `FX65` does when its block lies inside memory. -/
theorem exists_exec_ldRegs (x : RegIdx) (h : s.index.toNat + x.val ≤ 0xFFF) :
    ∃ t : State, exec (.ldRegs x) s = .next t ∧
      (∀ r : RegIdx, t.reg[r] = if r ≤ x then s.readByte (s.index.toNat + r.val) else s.reg[r]) ∧
      t = { s with reg := t.reg, pc := s.pc + 2 } ∧ SameBytes s t :=
  ⟨_, exec_ldRegs_ok x s (by omega), getElem_writeRegRange_block s s.dataBase x, rfl, fun _ => rfl⟩

/-- Settles O51: the two sides of the bound on the last register's address. -/
theorem registersAreLoadedFromIndexUp : Obligations.RegistersAreLoadedFromIndexUp :=
  ⟨rowDecodes_ldRegs, fun x s => ⟨exists_exec_ldRegs x, fun h => exec_ldRegs_error x s (by omega)⟩⟩

/-- Settles O52: each register up to X is loaded from the byte that it was stored to. -/
theorem loadAfterStoreRestoresTheRegisters : Obligations.LoadAfterStoreRestoresTheRegisters := by
  intro x s t u hs hstore hindex hbytes
  obtain ⟨t', hstore', -, -, hstored⟩ := stores_stRegs x hs
  cases hstore.symm.trans hstore'
  obtain ⟨v, hload, hloaded, -⟩ := exists_exec_ldRegs (s := u) x (hindex ▸ hs)
  refine ⟨v, hload, fun r hr => ?_⟩
  calc v.reg[r] = u.readByte (u.index.toNat + r.val) := (hloaded r).trans (if_pos hr)
    _ = t.readByte (s.index.toNat + r.val) := by rw [hindex, hbytes]
    _ = s.reg[r] := hstored r hr

end Sys2Proof.Proofs
end

section
/-! The display (43_display.md): which cycles change the frame buffer and the draw flag, the clear, and the sprite draw with
its collision detector. -/

namespace Sys2Proof.Proofs

open Sys2Proof Sys2Proof.Machine Sys2Proof.Claims

variable {i j : Instr} {s t : State} {x y : RegIdx} {n px py : Nat}

/-! ## The writers of the display (R185) -/

/-- `i` is one of the two instructions that write the frame buffer. -/
def DisplayWriter (i : Instr) : Prop := i = .cls ∨ ∃ x y n, i = .drw x y n

theorem ExecEffect.fb_eq_or_displayWriter (h : ExecEffect s i t) : t.fb = s.fb ∨ DisplayWriter i := by
  cases h with
  | cls => exact .inr (.inl rfl)
  | drw x y n => exact .inr (.inr ⟨x, y, n, rfl⟩)
  | _ => exact .inl (by simp)

theorem ExecEffect.drawFlag_eq_or_displayWriter (h : ExecEffect s i t) :
    t.drawFlag = s.drawFlag ∨ t.drawFlag = true ∧ DisplayWriter i := by
  cases h with
  | cls => exact .inr ⟨rfl, .inl rfl⟩
  | drw x y n => exact .inr ⟨rfl, .inr ⟨x, y, n, rfl⟩⟩
  | _ => exact .inl (by simp)

theorem execOnly_fb : ExecOnly State.fb := ⟨fun _ _ => rfl, fun _ _ => rfl, fun _ => rfl⟩
theorem execOnly_drawFlag : ExecOnly State.drawFlag := ⟨fun _ _ => rfl, fun _ _ => rfl, fun _ => rfl⟩

/-- A writer that completes raises the draw flag. -/
theorem DisplayWriter.drawFlag_of_exec (hw : DisplayWriter i) (h : exec i s = .next t) (ht : t.fault = none) :
    t.drawFlag = true := by
  obtain rfl | ⟨x, y, n, rfl⟩ := hw
  · cases h
    rfl
  · by_cases hin : n = 0 ∨ s.index.toNat + n ≤ 0x1000
    · cases h.symm.trans (exec_drw_ok x y n s hin)
      rfl
    · cases h.symm.trans (exec_drw_error x y n s hin)
      cases ht

theorem drawFlag_of_exec_iff (h : exec i s = .next t) (ht : t.fault = none) :
    t.drawFlag = true ↔ s.drawFlag = true ∨ DisplayWriter i := by
  constructor
  · intro hflag
    obtain heq | ⟨-, hw⟩ := (execEffect_of_exec h).drawFlag_eq_or_displayWriter
    · exact .inl (heq ▸ hflag)
    · exact .inr hw
  · rintro (hflag | hw)
    · obtain heq | ⟨hup, -⟩ := (execEffect_of_exec h).drawFlag_eq_or_displayWriter
      · exact heq.trans hflag
      · exact hup
    · exact hw.drawFlag_of_exec h ht

/-- A cycle runs one instruction. -/
theorem eq_of_runs (hi : Runs s i) (hj : Runs s j) : i = j := by
  obtain ⟨-, -, hi⟩ := hi
  obtain ⟨-, -, hj⟩ := hj
  exact Except.ok.inj (hi.symm.trans hj)

/-- The claim's way to say that the cycle ran a writer. -/
theorem displayWriter_iff_of_runs (h : Runs s i) :
    DisplayWriter i ↔ Runs s .cls ∨ ∃ x y n, Runs s (.drw x y n) := by
  constructor
  · rintro (rfl | ⟨x, y, n, rfl⟩)
    · exact .inl h
    · exact .inr ⟨x, y, n, h⟩
  · rintro (hcls | ⟨x, y, n, hdrw⟩)
    · exact .inl (eq_of_runs h hcls)
    · exact .inr ⟨x, y, n, eq_of_runs h hdrw⟩

theorem drawFlag_of_step (h : step s = .next t) (hs : s.drawFlag = true) : t.drawFlag = true := by
  obtain heq | ⟨i, u, -, hu, heq⟩ := execOnly_drawFlag.step_cases h
  · exact heq.trans hs
  · obtain hkept | ⟨hup, -⟩ := hu.drawFlag_eq_or_displayWriter
    · exact heq.trans (hkept.trans hs)
    · exact heq.trans hup

/-- Settles O25: of all effects only those of the two writers touch the frame buffer and the draw flag, and a cycle that
raised no fatal condition ends with what execute left. -/
theorem displayChangesOnlyThroughClearAndDraw : Obligations.DisplayChangesOnlyThroughClearAndDraw := by
  intro s t h
  refine ⟨fun hne => ?_, drawFlag_of_step h, fun hs ht => ?_⟩
  · obtain ⟨i, hrun, hw⟩ := execOnly_fb.runs_of_ne (·.fb_eq_or_displayWriter) h hne
    exact (displayWriter_iff_of_runs hrun).1 hw
  · obtain ⟨-, f, rfl⟩ | ⟨-, f, rfl⟩ | ⟨i, u, hrun, hexec, hu, rfl⟩ := step_cases_running hs h
    · cases ht
    · cases ht
    · rw [← displayWriter_iff_of_runs hrun]
      exact drawFlag_of_exec_iff (s := s.setOpcode (wordAtPc s)) (t := u) hexec hu

/-- Settles O53: a pixel of the blank frame buffer is 0. -/
theorem clearScreenZeroesEveryPixel : Obligations.ClearScreenZeroesEveryPixel :=
  ⟨rowDecodes_cls, fun _ => ⟨_, rfl, fun _ _ _ _ => by simp [blankFb], rfl, fun _ => rfl⟩⟩

/-- Settles O55: the range check comes before anything is drawn. -/
theorem spriteOutsideMemoryIsFatal : Obligations.SpriteOutsideMemoryIsFatal :=
  fun x y n s _ _ => exec_drw_error x y n s (by omega)

/-! ## What a sprite draw leaves on the screen (R182 to R184) -/

/-- The sprite that `DXYN` reads from memory has its set bits where the claims say. -/
theorem spriteOver_readByte_iff :
    spriteOver ((List.range n).map fun k => s.readByte (s.dataBase + k)) (s.reg[x]).toNat (s.reg[y]).toNat px py = true ↔
      spriteBitOver s x y n px py := by
  simp only [spriteOver, Bool.and_eq_true, decide_eq_true_eq, List.length_map, List.length_range]
  constructor
  · rintro ⟨⟨hx, hx8, hy, hyn⟩, hbit⟩
    have hrow : py - (s.reg[y]).toNat < n := by omega
    rw [List.getD_eq_getElem?_getD, getElem?_map_readByte s s.dataBase hrow] at hbit
    exact ⟨px - (s.reg[x]).toNat, py - (s.reg[y]).toNat, by omega, hrow, by omega, by omega, hbit⟩
  · rintro ⟨c, r, hc, hr, rfl, rfl, hbit⟩
    rw [Nat.add_sub_cancel_left, Nat.add_sub_cancel_left, List.getD_eq_getElem?_getD,
      getElem?_map_readByte s s.dataBase hr]
    exact ⟨by omega, hbit⟩

theorem pixelAt_drawn_of_bit (hx : px < 64) (hy : py < 32) (h : spriteBitOver s x y n px py) :
    pixelAt (s.drawn x y n).1 px py = !pixelAt s.fb px py := by
  rw [State.drawn, (drawRows_spec _ _ _ _).1 px py hx hy, spriteOver_readByte_iff.2 h, Bool.xor_true]

theorem pixelAt_drawn_of_no_bit (hx : px < 64) (hy : py < 32) (h : ¬ spriteBitOver s x y n px py) :
    pixelAt (s.drawn x y n).1 px py = pixelAt s.fb px py := by
  rw [State.drawn, (drawRows_spec _ _ _ _).1 px py hx hy,
    Bool.eq_false_iff.2 (mt spriteOver_readByte_iff.1 h), Bool.xor_false]

/-- The collision detector reports a visible set bit over a lit pixel. -/
theorem drawn_collision_iff : (s.drawn x y n).2 = true ↔
    ∃ px py, px < 64 ∧ py < 32 ∧ spriteBitOver s x y n px py ∧ pixelAt s.fb px py = true := by
  rw [State.drawn, (drawRows_spec _ _ _ _).2]
  simp only [Bool.false_eq_true, false_or, spriteOver_readByte_iff]

/-- A pixel went from 1 to 0 exactly when it was lit and a set bit lies over it. -/
theorem lit_and_cleared_iff (hx : px < 64) (hy : py < 32) :
    s.fb[py][px] = true ∧ (s.drawn x y n).1[py][px] = false ↔
      spriteBitOver s x y n px py ∧ pixelAt s.fb px py = true := by
  rw [← pixelAt_eq s.fb hx hy, ← pixelAt_eq (s.drawn x y n).1 hx hy]
  by_cases h : spriteBitOver s x y n px py
  · simp [pixelAt_drawn_of_bit hx hy h, h]
  · simp [pixelAt_drawn_of_no_bit hx hy h, h]

theorem exists_lit_and_cleared_iff :
    (∃ (px py : Nat) (_ : px < 64) (_ : py < 32), s.fb[py][px] = true ∧ (s.drawn x y n).1[py][px] = false) ↔
      (s.drawn x y n).2 = true := by
  rw [drawn_collision_iff]
  constructor
  · rintro ⟨px, py, hx, hy, h⟩
    exact ⟨px, py, hx, hy, (lit_and_cleared_iff hx hy).1 h⟩
  · rintro ⟨px, py, hx, hy, h⟩
    exact ⟨px, py, hx, hy, (lit_and_cleared_iff hx hy).2 h⟩

/-! ## The state after a sprite draw -/

/-- What `DXYN` makes of `s` when its sprite lies inside memory. -/
def afterDraw (s : State) (x y : RegIdx) (n : Nat) : State :=
  (((s.writeReg flagReg (collisionFlag (s.drawn x y n).2)).setFb (s.drawn x y n).1).setDrawFlag true).advance

theorem exec_drw_afterDraw (h : n = 0 ∨ s.index.toNat + n - 1 ≤ 0xFFF) :
    exec (.drw x y n) s = .next (afterDraw s x y n) :=
  exec_drw_ok x y n s (by omega)

theorem afterDraw_fb : (afterDraw s x y n).fb = (s.drawn x y n).1 := rfl

theorem afterDraw_flag : (afterDraw s x y n).reg[(15 : RegIdx)] = collisionFlag (s.drawn x y n).2 :=
  reg_writeReg_same s flagReg _

theorem afterDraw_reg_ne {r : RegIdx} (h : r ≠ 15) : (afterDraw s x y n).reg[r] = s.reg[r] :=
  reg_writeReg_ne s _ h

theorem collisionFlag_eq_one_iff {b : Bool} : collisionFlag b = 1 ↔ b = true := by
  cases b <;> decide

/-- Settles O54: the loop over rows and columns in closed form, and the detector as the pixels that went dark. -/
theorem spriteDrawFlipsAndDetectsCollisions : Obligations.SpriteDrawFlipsAndDetectsCollisions := by
  refine ⟨rowDecodes_drw, fun x y n s hin => ⟨afterDraw s x y n, exec_drw_afterDraw hin,
    fun px py hx hy => ⟨fun hbit => ?_, fun hno => ?_⟩, fun hcleared => ?_, fun hnone => ?_,
    fun _ hr => afterDraw_reg_ne hr, rfl, fun _ => rfl⟩⟩
  · simpa only [afterDraw_fb, pixelAt_eq _ hx hy] using pixelAt_drawn_of_bit hx hy hbit
  · simpa only [afterDraw_fb, pixelAt_eq _ hx hy] using pixelAt_drawn_of_no_bit hx hy hno
  · rw [afterDraw_flag, exists_lit_and_cleared_iff.1 hcleared]
    rfl
  · rw [afterDraw_flag, Bool.eq_false_iff.2 (mt exists_lit_and_cleared_iff.2 hnone)]
    rfl

/-- With X and Y not 0xF, the flag write of the draw leaves the sprite's place and bits alone. -/
theorem spriteBitOver_afterDraw_iff (hx : x ≠ 15) (hy : y ≠ 15) :
    spriteBitOver (afterDraw s x y n) x y n px py ↔ spriteBitOver s x y n px py := by
  unfold spriteBitOver
  rw [afterDraw_reg_ne hx, afterDraw_reg_ne hy]
  rfl

/-- Two flips of the same pixels cancel. -/
theorem fb_afterDraw_afterDraw (hx : x ≠ 15) (hy : y ≠ 15) :
    (afterDraw (afterDraw s x y n) x y n).fb = s.fb := by
  refine fb_ext fun px py hpx hpy => ?_
  by_cases h : spriteBitOver s x y n px py
  · calc pixelAt (afterDraw (afterDraw s x y n) x y n).fb px py
        = !pixelAt (afterDraw s x y n).fb px py :=
          pixelAt_drawn_of_bit hpx hpy ((spriteBitOver_afterDraw_iff hx hy).2 h)
      _ = !!pixelAt s.fb px py := congrArg _ (pixelAt_drawn_of_bit hpx hpy h)
      _ = pixelAt s.fb px py := Bool.not_not _
  · calc pixelAt (afterDraw (afterDraw s x y n) x y n).fb px py
        = pixelAt (afterDraw s x y n).fb px py :=
          pixelAt_drawn_of_no_bit hpx hpy (mt (spriteBitOver_afterDraw_iff hx hy).1 h)
      _ = pixelAt s.fb px py := pixelAt_drawn_of_no_bit hpx hpy h

/-- On dark pixels the first draw lights every pixel under a visible set bit, and the second collides with each of them. -/
theorem afterDraw_collision_iff_of_dark (hx : x ≠ 15) (hy : y ≠ 15)
    (hdark : ∀ (px py : Nat) (_ : px < 64) (_ : py < 32), spriteBitOver s x y n px py → s.fb[py][px] = false) :
    ((afterDraw s x y n).drawn x y n).2 = true ↔ ∃ px py : Nat, px < 64 ∧ py < 32 ∧ spriteBitOver s x y n px py := by
  simp only [drawn_collision_iff, spriteBitOver_afterDraw_iff hx hy]
  constructor
  · rintro ⟨px, py, hpx, hpy, hbit, -⟩
    exact ⟨px, py, hpx, hpy, hbit⟩
  · rintro ⟨px, py, hpx, hpy, hbit⟩
    refine ⟨px, py, hpx, hpy, hbit, ?_⟩
    calc pixelAt (afterDraw s x y n).fb px py = !pixelAt s.fb px py := pixelAt_drawn_of_bit hpx hpy hbit
      _ = true := by rw [pixelAt_eq s.fb hpx hpy, hdark px py hpx hpy hbit, Bool.not_false]

/-- Settles O56: the second draw has the place and the bits of the first. -/
theorem drawingTwiceRestoresTheScreen : Obligations.DrawingTwiceRestoresTheScreen := fun x y n s hx hy hin =>
  ⟨afterDraw s x y n, afterDraw (afterDraw s x y n) x y n, exec_drw_afterDraw hin, exec_drw_afterDraw hin,
    fb_afterDraw_afterDraw hx hy, fun hdark => by
      rw [afterDraw_flag, collisionFlag_eq_one_iff]
      exact afterDraw_collision_iff_of_dark hx hy hdark⟩

end Sys2Proof.Proofs
end

section
/-! Keys and timers (44_keys_timers.md): the skips on a key, the scan of the key wait, and the timer accesses with the tick at
the end of their cycle. -/

namespace Sys2Proof.Proofs

open Sys2Proof Sys2Proof.Machine Sys2Proof.Claims

variable {x : RegIdx} {s : State}

/-! ## Keys -/

/-- Settles O57: the two sides of the bound on the key's number, and the skip pattern below it. -/
theorem keySkipsReadTheNamedKey : Obligations.KeySkipsReadTheNamedKey := by
  refine ⟨rowDecodes_skp, rowDecodes_sknp, fun x s => ⟨fun h => ⟨?skp, ?sknp⟩, fun h => ⟨?skpFatal, ?sknpFatal⟩⟩⟩
  case skp => exact writesPc_of_exec_skipIf Iff.rfl (exec_skp_ok x s h)
  case sknp => exact writesPc_of_exec_skipIf (Bool.not_eq_true' _).to_iff (exec_sknp_ok x s h)
  case skpFatal => exact exec_skp_error x s (by omega)
  case sknpFatal => exact exec_sknp_error x s (by omega)

theorem exec_ldVxK_of_some {k : KeyIdx} (h : firstPressed s.key s.params.fx0aLastKey.toNat = some k) :
    exec (.ldVxK x) s = .next (s.writeResult x (BitVec.ofNat 8 k.val)) := by
  simp only [exec, execLdVxK, h]
  rfl

theorem exec_ldVxK_of_none (h : firstPressed s.key s.params.fx0aLastKey.toNat = none) :
    exec (.ldVxK x) s = .next s := by
  simp only [exec, execLdVxK, h]

/-- Settles O59: the scan finds the lowest pressed key, or none. -/
theorem keyWaitTakesTheLowestPressedKey : Obligations.KeyWaitTakesTheLowestPressedKey := by
  refine ⟨rowDecodes_ldVxK, fun x s => ⟨fun k hk hpressed hlower => ?_, fun hnone => ?_⟩⟩
  · exact writesReg_of_exec_writeResult
      (exec_ldVxK_of_some ((firstPressed_eq_some _ _ k).2 ⟨hk, hpressed, fun j hj _ => hlower j hj⟩))
  · exact exec_ldVxK_of_none ((firstPressed_eq_none _ _).2 hnone)

/-! ## Timers -/

/-- Settles O58: `delay` is the value written. -/
theorem readDelayWritesTheRegister : Obligations.ReadDelayWritesTheRegister :=
  ⟨rowDecodes_ldVxDt, fun _ _ => writesReg_of_exec_writeResult rfl⟩

/-- The sound output is on while the timer is nonzero (10_state.md R38). -/
theorem soundActive_iff : soundActive s = true ↔ s.sound.toNat ≠ 0 :=
  bne_iff_ne.trans (not_congr BitVec.toNat_inj.symm)

/-- A cycle that runs `FX15` ticks what it wrote. -/
theorem exists_step_delay_of_runs_ldDtVx (h : Runs s (.ldDtVx x)) :
    ∃ t : State, step s = .next t ∧ t.delay.toNat = (s.reg[x]).toNat - 1 :=
  ⟨_, step_of_runs h rfl h.1, tickTimer_toNat s.reg[x]⟩

/-- A cycle that runs `FX18` ticks what it wrote. -/
theorem exists_step_sound_of_runs_ldStVx (h : Runs s (.ldStVx x)) :
    ∃ t : State, step s = .next t ∧ t.sound.toNat = (s.reg[x]).toNat - 1 :=
  ⟨_, step_of_runs h rfl h.1, tickTimer_toNat s.reg[x]⟩

/-- Settles O60: each execute step writes its timer and `pc`; one less than the value is nonzero from 2 on. -/
theorem timerWritesAreTickedInTheSameCycle : Obligations.TimerWritesAreTickedInTheSameCycle := by
  refine ⟨rowDecodes_ldDtVx, rowDecodes_ldStVx, fun x s => ⟨⟨_, rfl, rfl, fun _ => rfl⟩, ⟨_, rfl, rfl, fun _ => rfl⟩⟩,
    fun x s => ⟨exists_step_delay_of_runs_ldDtVx, fun h => ?_⟩⟩
  obtain ⟨t, hstep, hsound⟩ := exists_step_sound_of_runs_ldStVx h
  refine ⟨t, hstep, hsound, ?_⟩
  rw [soundActive_iff, hsound]
  omega

end Sys2Proof.Proofs
end

section
/-! Fatal conditions (60_exceptions.md): every cycle answers a next state, a cycle raises exactly the condition that a rule
names, the entry is precise, and only the host's reset leaves the halt. -/

namespace Sys2Proof.Proofs

open Sys2Proof Sys2Proof.Machine Sys2Proof.Claims

variable {i : Instr} {s t : State}

/-! ## Every cycle answers a next state -/

theorem exists_endCycle (u : State) : ∃ t, endCycle (.next u) = .next t := by
  cases hu : u.fault with
  | none => exact ⟨timerTick u, by simp only [endCycle, hu]⟩
  | some r => exact ⟨u, by simp only [endCycle, hu]⟩

theorem exists_step_eq_next (s : State) : ∃ t, step s = .next t := by
  cases hs : s.fault with
  | some r => exact ⟨s, step_halted s r hs⟩
  | none =>
    cases hf : fetch s with
    | error f => exact ⟨_, step_fetch_error s f hs hf⟩
    | ok w =>
      cases hd : decodeWord w with
      | error e => exact ⟨_, step_unrecognized s w e hs hf hd⟩
      | ok i =>
        obtain ⟨u, hexec, -⟩ := exists_execEffect i (s.setOpcode w)
        obtain ⟨t, hend⟩ := exists_endCycle u
        exact ⟨t, by rw [step_decoded s w i hs hf hd, hexec, hend]⟩

/-- Settles O9: the five ways of a cycle all answer a next state, as every instruction does. -/
theorem everyCycleAnswersANextState : Obligations.EveryCycleAnswersANextState :=
  ⟨exists_step_eq_next, fun i s =>
    have ⟨t, hexec, _⟩ := exists_execEffect i s
    ⟨t, hexec⟩⟩

/-! ## Fault entry -/

/-- Settles O11: a fatal condition is taken in the state at the start of the cycle, before or after `opcode` is loaded. -/
theorem faultEntryIsPrecise : Obligations.FaultEntryIsPrecise := by
  intro s t hs h hfault
  obtain ⟨hout, f, rfl⟩ | ⟨hin, f, rfl⟩ | ⟨_, _, _, _, hu, rfl⟩ := step_cases_running hs h
  · exact ⟨f.code, f.info, rfl, fun hin => absurd hout (by omega), fun _ => rfl⟩
  · exact ⟨f.code, f.info, rfl, fun _ => rfl, fun hout => absurd hin (by omega)⟩
  · exact absurd hu hfault

/-! ## Which condition a cycle raises -/

/-- Code and information of the fault record, if there is one. -/
def raised (t : State) : Option (Fault × Nat) := t.fault.map fun r => (r.code, r.info)

theorem raised_eq_none (h : t.fault = none) : raised t = none := Option.map_eq_none_iff.2 h

theorem fault_writeFlagged (s : State) (flag res : Byte → Byte → Byte) (x y : RegIdx) :
    (s.writeFlagged flag res x y).fault = s.fault := by
  obtain ⟨v, hv⟩ := writeFlagged_eq s flag res x y
  exact hv ▸ rfl

theorem fault_writeBytes (a : Nat) (bs : List Byte) (s : State) : (State.writeBytes a bs s).fault = s.fault := by
  rw [writeBytes_eq_setMem, State.setMem_fault]

/-- The check of each instruction that has one decides as its rule does; the other instructions leave the record alone. -/
theorem exists_exec_raised (i : Instr) (hs : s.fault = none) : ∃ u, exec i s = .next u ∧ raised u = raisedBy i s := by
  cases i with
  | ret =>
    by_cases h : s.sp.val = 0
    · exact ⟨_, exec_ret_error s h, (if_pos h).symm⟩
    · exact ⟨_, exec_ret_ok s h, (raised_eq_none hs).trans (if_neg h).symm⟩
  | call nnn =>
    by_cases h : s.sp.val = 16
    · exact ⟨_, exec_call_error nnn s h, (if_pos h).symm⟩
    · exact ⟨_, exec_call_ok nnn s (by omega), (raised_eq_none hs).trans (if_neg h).symm⟩
  | drw x y n =>
    by_cases h : n > 0 ∧ s.index.toNat + n - 1 > 0xFFF
    · exact ⟨_, exec_drw_error x y n s (by omega), (if_pos h).symm⟩
    · exact ⟨_, exec_drw_ok x y n s (by omega), (raised_eq_none hs).trans (if_neg h).symm⟩
  | ldB x =>
    by_cases h : s.index.toNat + 2 > 0xFFF
    · exact ⟨_, exec_ldB_error x s (by omega), (if_pos h).symm⟩
    · exact ⟨_, exec_ldB_ok x s (by omega),
        (raised_eq_none ((fault_writeBytes _ _ s).trans hs)).trans (if_neg h).symm⟩
  | stRegs x =>
    by_cases h : s.index.toNat + x.val > 0xFFF
    · exact ⟨_, exec_stRegs_error x s (by omega), (if_pos h).symm⟩
    · exact ⟨_, exec_stRegs_ok x s (by omega),
        (raised_eq_none ((fault_writeBytes _ _ s).trans hs)).trans (if_neg h).symm⟩
  | ldRegs x =>
    by_cases h : s.index.toNat + x.val > 0xFFF
    · exact ⟨_, exec_ldRegs_error x s (by omega), (if_pos h).symm⟩
    · exact ⟨_, exec_ldRegs_ok x s (by omega), (raised_eq_none hs).trans (if_neg h).symm⟩
  | skp x =>
    by_cases h : (s.reg[x]).toNat > 0xF
    · exact ⟨_, exec_skp_error x s (by omega), (if_pos h).symm⟩
    · exact ⟨_, exec_skp_ok x s (by omega), (raised_eq_none hs).trans (if_neg h).symm⟩
  | sknp x =>
    by_cases h : (s.reg[x]).toNat > 0xF
    · exact ⟨_, exec_sknp_error x s (by omega), (if_pos h).symm⟩
    · exact ⟨_, exec_sknp_ok x s (by omega), (raised_eq_none hs).trans (if_neg h).symm⟩
  | addReg x y | subReg x y | shr x y | subnReg x y | shl x y =>
    exact ⟨_, rfl, raised_eq_none ((fault_writeFlagged s _ _ x y).trans hs)⟩
  | ldVxK x =>
    cases h : firstPressed s.key s.params.fx0aLastKey.toNat with
    | some k => exact ⟨_, exec_ldVxK_of_some h, raised_eq_none hs⟩
    | none => exact ⟨_, exec_ldVxK_of_none h, raised_eq_none hs⟩
  | _ => exact ⟨_, rfl, raised_eq_none hs⟩

theorem raised_of_exec (hs : s.fault = none) (h : exec i s = .next t) : raised t = raisedBy i s := by
  obtain ⟨u, hexec, hu⟩ := exists_exec_raised i hs
  cases hexec.symm.trans h
  exact hu

/-! ### The rules in the order of the cycle (60_exceptions.md R230) -/

theorem cycleRaises_of_fetch_error {f : Fatal} (h : fetch s = .error f) : cycleRaises s = some (f.code, f.info) := by
  by_cases hpc : s.pc.toNat + 1 > 0xFFF
  · cases h.symm.trans (fetch_error s (by omega))
    exact if_pos hpc
  · cases h.symm.trans (fetch_ok s (by omega))

theorem cycleRaises_of_unrecognized {e : DecodeError} (hpc : s.pc.toNat + 1 ≤ 0xFFF)
    (hdec : decodeWord (wordAtPc s) = .error e) :
    cycleRaises s = some (.unrecognizedOpcode, (wordAtPc s).toNat) := by
  rw [cycleRaises, if_neg (by omega), hdec]

theorem cycleRaises_of_decoded (hpc : s.pc.toNat + 1 ≤ 0xFFF) (hdec : decodeWord (wordAtPc s) = .ok i) :
    cycleRaises s = raisedBy i s := by
  rw [cycleRaises, if_neg (by omega), hdec]

theorem raised_of_step (hs : s.fault = none) (h : step s = .next t) : raised t = cycleRaises s := by
  obtain ⟨hne, -⟩ | ⟨-, f, hfetch, rfl⟩ | ⟨-, w, e, hfetch, hdec, rfl⟩ | ⟨-, w, i, u, hfetch, hdec, hexec, hend⟩ :=
    step_cases h
  · exact absurd hs hne
  · exact (cycleRaises_of_fetch_error hfetch).symm
  · obtain ⟨hpc, rfl⟩ := fetch_eq_ok hfetch
    exact (cycleRaises_of_unrecognized hpc hdec).symm
  · obtain ⟨hpc, rfl⟩ := fetch_eq_ok hfetch
    have hu : raised u = raisedBy i s := raised_of_exec (s := s.setOpcode (wordAtPc s)) hs hexec
    rw [cycleRaises_of_decoded hpc hdec, ← hu]
    obtain ⟨-, rfl⟩ | ⟨-, rfl⟩ := hend
    · rfl
    · rfl

/-- Settles O12: fetch, decode and the instruction's own check, in that order, decide what the record holds. -/
theorem cycleFaultsExactlyWhenARuleSays : Obligations.CycleFaultsExactlyWhenARuleSays := fun s hs =>
  have ⟨t, hstep⟩ := exists_step_eq_next s
  ⟨t, hstep, raised_of_step hs hstep⟩

/-! ## Leaving the halt -/

theorem eq_writeBytes_of_loadProgram {bytes : List Byte} (h : loadProgram bytes s = .next t) :
    t = State.writeBytes 0x200 bytes s := by
  by_cases hlen : bytes.length ≤ 3584
  · cases h.symm.trans (loadProgram_ok bytes s hlen)
    rfl
  · cases h.symm.trans (loadProgram_error bytes s (by omega))

/-- No host operation but reset writes the record of a halted core; its cycles do nothing at all. -/
theorem fault_of_hostStep {op : HostOp} (hop : op ≠ .reset) (hs : s.fault ≠ none) (h : hostStep op s = .next t) :
    t.fault = s.fault := by
  cases op with
  | reset => exact absurd rfl hop
  | loadProgram bytes => exact eq_writeBytes_of_loadProgram h ▸ fault_writeBytes 0x200 bytes s
  | stepCycle =>
    cases h.symm.trans (haltedCoreChangesNothing s hs)
    rfl
  | setKeys states => cases h; rfl
  | ackDraw => cases h; rfl
  | injectRandom bytes => cases h; rfl

/-- Settles O13: reset answers a state without a record, every other operation keeps it. -/
theorem onlyResetLeavesAHalt : Obligations.OnlyResetLeavesAHalt := by
  intro op s t r hs h
  refine ⟨?_, fun hop => (fault_of_hostStep hop (by simp [hs]) h).trans hs⟩
  rintro rfl
  cases h
  rfl

end Sys2Proof.Proofs
end

section
/-! The host's operations (70_reset_and_hazards.md): what reset, load, keys and the draw flag's acknowledgement do to the
state, and that every run of them keeps the invariant. -/

namespace Sys2Proof.Proofs

open Sys2Proof Sys2Proof.Machine Sys2Proof.Config

variable {s t : State} {op : HostOp} {ops : List HostOp} {bytes : List Byte}

/-! ## Runs of host operations -/

/-- A run goes on from the state unchanged after an operation that was turned away. -/
theorem hostRun_cons_of_refused {r : Refusal} (h : hostStep op s = .refused r) :
    hostRun (op :: ops) s = hostRun ops s := by
  rw [hostRun, h]

/-- What every host operation keeps that is carried out, every run keeps. -/
theorem hostRun_keeps {P : State → Prop} (hkeep : ∀ op s t, P s → hostStep op s = .next t → P t) (hs : P s) :
    P (hostRun ops s) := by
  induction ops generalizing s with
  | nil => exact hs
  | cons op ops ih =>
    rw [hostRun]
    split
    · next t h => exact ih (hkeep op s t hs h)
    · exact ih hs
    · exact ih hs

/-! ## The invariant -/

theorem inv_of_same (hs : s.Inv) (hm : t.mem = s.mem) (hp : t.params = s.params) (hpc : t.pc = s.pc)
    (hst : t.stack = s.stack) : t.Inv := (inv_eq_of_same hm hp hpc hst).mpr hs

theorem writeBytes_inv {a : Nat} (hlen : a + bytes.length ≤ 0x1000) (hs : s.Inv) : (State.writeBytes a bytes s).Inv where
  mem_wf := by
    have hparams : (State.writeBytes a bytes s).params = s.params := by rw [State.writeBytes_eq]
    exact hparams.symm ▸ State.wf_writeBytes bytes a s hlen hs.mem_wf
  pc_le := by rw [State.writeBytes_eq]; exact hs.pc_le
  stack_le := by rw [State.writeBytes_eq]; exact hs.stack_le

theorem loadProgram_inv (hs : s.Inv) (h : loadProgram bytes s = .next t) : t.Inv := by
  by_cases hlen : bytes.length ≤ 3584
  · cases h.symm.trans (loadProgram_ok bytes s hlen)
    exact writeBytes_inv (by omega) hs
  · cases h.symm.trans (loadProgram_error bytes s (by omega))

/-- Reset meets the invariant from any state; a load that is carried out ends inside memory; a cycle is one step; the other
three operations write nothing that the invariant reads. -/
theorem hostStep_inv (op : HostOp) (s t : State) (hs : s.Inv) (h : hostStep op s = .next t) : t.Inv := by
  cases op with
  | reset =>
    cases h
    exact inv_of_same (resetWith_inv s.params) rfl rfl rfl rfl
  | loadProgram bytes => exact loadProgram_inv hs h
  | stepCycle => exact stepKeepsTheInvariant s t hs h
  | setKeys states | ackDraw | injectRandom bytes =>
    cases h
    exact inv_of_same hs rfl rfl rfl rfl

/-- Settles O16, by induction on the run: every operation that is carried out keeps the invariant. -/
theorem everyRunKeepsTheInvariant : Obligations.EveryRunKeepsTheInvariant := fun _ _ => hostRun_keeps hostStep_inv

/-! ## Loading a program -/

/-- Settles O29: the length decides; what fits is one block write at 0x200. -/
theorem loadProgramPlacesTheImage : Obligations.LoadProgramPlacesTheImage := by
  refine fun bytes s => ⟨fun hfits => ?placed, fun hlong => ?refused⟩
  case placed =>
    rw [loadProgram_ok bytes s hfits]
    exact ⟨_, rfl, fun i hi => readByte_writeBytes_getElem? s (List.getElem?_eq_getElem hi),
      fun a ha => readByte_writeBytes_outside s ha, State.writeBytes_eq bytes 0x200 s, rfl⟩
  case refused =>
    have hload := loadProgram_error bytes s hlong
    rw [hload]
    exact ⟨rfl, rfl, hostRun_cons_of_refused hload⟩

/-! ## The draw flag -/

/-- A host operation other than `ack_draw` and reset keeps a raised draw flag up. -/
theorem drawFlag_of_hostStep (hop : op ≠ .ackDraw ∧ op ≠ .reset) (h : hostStep op s = .next t) (hs : s.drawFlag = true) :
    t.drawFlag = true := by
  cases op with
  | reset => exact absurd rfl hop.2
  | ackDraw => exact absurd rfl hop.1
  | loadProgram bytes => rwa [eq_writeBytes_of_loadProgram h, State.writeBytes_eq]
  | stepCycle => exact drawFlag_of_step h hs
  | setKeys states | injectRandom bytes => cases h; exact hs

/-- Settles O30: `ack_draw` is one field's update, and an operation that ends with the flag down did not keep it up. -/
theorem onlyAckDrawAndResetClearTheDrawFlag : Obligations.OnlyAckDrawAndResetClearTheDrawFlag := by
  refine ⟨fun _ => rfl, fun op s t h hs ht => ?_⟩
  by_contra hop
  exact Bool.false_ne_true (ht.symm.trans (drawFlag_of_hostStep (not_or.1 hop) h hs))

/-! ## Construction and reset -/

/-- No byte is listed after reset, so every address reads as its reset content. -/
theorem readByte_resetWith (p : Params) (a : Nat) : (State.resetWith p).readByte a = resetByte p.font a := rfl

theorem resetByte_of_lt (font : Font) {a : Nat} (h : a < 80) : resetByte font a = font[a] := by
  rw [resetByte, Vector.getElem?_eq_getElem h, Option.getD_some]

theorem resetByte_of_ge (font : Font) {a : Nat} (h : 80 ≤ a) : resetByte font a = 0 := by
  rw [resetByte, Vector.getElem?_eq_none h, Option.getD_none]

/-- Construction and reset answer the reset state, up to the random source. -/
theorem eq_setRandom_of_reset {p : Params} (h : t = State.resetWith p ∨ (p = s.params ∧ t = hostReset s)) :
    ∃ (supply : List Byte) (draws : Nat), t = (State.resetWith p).setRandom supply draws := by
  obtain rfl | ⟨rfl, rfl⟩ := h
  · exact ⟨[], 0, rfl⟩
  · exact ⟨s.randomIn, s.randomDraws, rfl⟩

/-- Settles O28: each element of the reset state, which the random source is no part of. -/
theorem constructionAndResetLoadTheFontAndZeroTheRest : Obligations.ConstructionAndResetLoadTheFontAndZeroTheRest := by
  intro s t p h
  obtain ⟨supply, draws, rfl⟩ := eq_setRandom_of_reset h
  exact ⟨fun a ha => (readByte_resetWith p a).trans (resetByte_of_lt p.font ha),
    fun a ha => (readByte_resetWith p a).trans (resetByte_of_ge p.font ha),
    fun r => Vector.getElem_replicate r.isLt, rfl, rfl, fun j => Vector.getElem_replicate j.isLt, rfl, rfl, rfl,
    fun px py hx hy => by simp [State.resetWith], rfl, fun k => Vector.getElem_replicate k.isLt, rfl, rfl, rfl⟩

/-! ## The keys -/

/-- Settles O31: `set_keys` is one field's update. -/
theorem setKeysReplacesTheKeyState : Obligations.SetKeysReplacesTheKeyState := fun states s =>
  ⟨setKeys states s, rfl, fun _ => rfl, rfl⟩

end Sys2Proof.Proofs
end
